-- ==== Sys2Proof/Word.lean ====
section
/-! DEFINITION. The word types of the core: a 32-bit port H word and a 16-bit sample (spec R7). -/

namespace Sys2Proof

/-- A register of port H or a command word: 32 bits (R7, R61). -/
abbrev Word := BitVec 32

/-- A sample: a 16-bit two's-complement pattern (R7). Its value is `toInt`. -/
abbrev Sample := BitVec 16

end Sys2Proof
end

