-- ==== Sys2Proof/Syntax.lean ====
section
/-! DEFINITION. The command set UQC-1: one constructor of `Instr` per row of spec/opcode_table.json, and the names its
operands range over. -/

namespace Sys2Proof

/-- The dispatcher's states (R19). SETMODE's field is one of these; the codes 5 to 7 are illegal and have no name. -/
inductive Mode
  | idle | envelope | ssbUsb | ssbLsb | report
  deriving DecidableEq, Repr

/-- The magnitude algorithms CFG.MAGSEL selects (R20, R104). The code 3 is illegal and has no name. -/
inductive MagAlg
  | fast | fast2 | exact
  deriving DecidableEq, Repr

/-- The two rails (R9). -/
inductive Rail
  | i | q
  deriving DecidableEq, Repr

/-- The sideband of a combine (R86). -/
inductive Sideband
  | usb | lsb
  deriving DecidableEq, Repr

/-- The six fields of CFG (R20), which SETCFG sets at once (R63). -/
structure Cfg where
  magsel : MagAlg
  hsel : Bool
  rails : Bool
  envdec : Bool
  envzs : Bool
  ratio : BitVec 4
  deriving DecidableEq, Repr

/-- The cause codes of a fault (R171). The codes 7 to 15 are never recorded and have no name. -/
inductive Cause
  | none | illegalOpcode | reservedNonzero | illegalValue | indexRange | badAccess | overrun
  deriving DecidableEq, Repr

/-- The 23 commands of the opcode map (R67). -/
inductive Instr
  | nop
  | setmode (m : Mode)
  | setcfg (c : Cfg)
  | rdcfg
  | rdpos
  | rdmag (k : BitVec 16)
  | rdph (k : BitVec 16)
  | rddbg
  | clrf
  | sat16
  | abs16
  | isqrt
  | ssbu
  | ssbl
  | magf
  | magf2
  | magx
  | mags
  | phase
  | hstep
  | dstep
  | dpub
  | process
  deriving DecidableEq, Repr

end Sys2Proof
end

