-- ==== Sys2Proof/WellFormed.lean ====
section
/-! DEFINITION. Which commands are well formed. The types of `Instr` already shut out an illegal MODE (R66) and an illegal
MAGSEL (R63); RATIO = 0 is the one illegal field value left (R63, R68). -/

namespace Sys2Proof

/-- A configuration holds only legal values (R20): RATIO is 1 to 15. -/
def Cfg.wf (c : Cfg) : Bool := c.ratio != 0

/-- A command is well formed when every field holds a legal value (R68, case 3). -/
def Instr.wf : Instr → Bool
  | .setcfg c => c.wf
  | .nop | .setmode _ | .rdcfg | .rdpos | .rdmag _ | .rdph _ | .rddbg | .clrf => true
  | .sat16 | .abs16 | .isqrt | .ssbu | .ssbl | .magf | .magf2 | .magx | .mags | .phase => true
  | .hstep | .dstep | .dpub | .process => true

end Sys2Proof
end

