-- ==== Sys2Proof/Decode.lean ====
section
/-! DEFINITION. The decoder of spec R70, total on every 32-bit word and rejecting by the cause of R68, and after it the
encoder, written from the formats of R62 and R63 and the opcode map of R67. -/

namespace Sys2Proof

/-- OPC, bits 31:24 of a command word (R61). -/
def opcodeField (w : Word) : BitVec 8 := w.extractLsb' 24 8

/-- OPR, bits 23:0 of a command word (R61). -/
def operandField (w : Word) : BitVec 24 := w.extractLsb' 0 24

/-- The mode a 3-bit code names (R19). -/
def Mode.ofCode (c : BitVec 3) : Option Mode :=
  match c.toNat with
  | 0 => some .idle
  | 1 => some .envelope
  | 2 => some .ssbUsb
  | 3 => some .ssbLsb
  | 4 => some .report
  | _ => none

/-- The 3-bit code of a mode (R19), as SETMODE, STATUS and RDCFG show it. -/
def Mode.code : Mode → BitVec 3
  | .idle => 0
  | .envelope => 1
  | .ssbUsb => 2
  | .ssbLsb => 3
  | .report => 4

/-- The algorithm a MAGSEL code names (R20). -/
def MagAlg.ofCode (c : BitVec 2) : Option MagAlg :=
  match c.toNat with
  | 0 => some .fast
  | 1 => some .fast2
  | 2 => some .exact
  | _ => none

/-- The MAGSEL code of an algorithm (R20). -/
def MagAlg.code : MagAlg → BitVec 2
  | .fast => 0
  | .fast2 => 1
  | .exact => 2

/-- A one-bit field read as a flag. -/
def flagAt (opr : BitVec 24) (n : Nat) : Bool := opr.getLsbD n

/-- The 4-bit cause code FCAUSE shows (R171). -/
def Cause.code : Cause → BitVec 4
  | .none => 0
  | .illegalOpcode => 1
  | .reservedNonzero => 2
  | .illegalValue => 3
  | .indexRange => 4
  | .badAccess => 5
  | .overrun => 6

/-- Formats N and R (R62): every operand bit is reserved. -/
def decodeBare (i : Instr) (opr : BitVec 24) : Except Cause Instr :=
  if opr = 0 then .ok i else .error .reservedNonzero

/-- Format M (R62, R66): bits 23:3 reserved, then the mode code. -/
def decodeMode (opr : BitVec 24) : Except Cause Instr :=
  if opr.extractLsb' 3 21 ≠ 0 then .error .reservedNonzero
  else match Mode.ofCode (opr.extractLsb' 0 3) with
    | some m => .ok (.setmode m)
    | none => .error .illegalValue

/-- Format C (R62, R63): bits 23:12 and 7:6 reserved, then MAGSEL and RATIO. -/
def decodeConfig (opr : BitVec 24) : Except Cause Instr :=
  if opr.extractLsb' 12 12 ≠ 0 ∨ opr.extractLsb' 6 2 ≠ 0 then .error .reservedNonzero
  else match MagAlg.ofCode (opr.extractLsb' 0 2) with
    | none => .error .illegalValue
    | some a =>
      if opr.extractLsb' 8 4 = 0 then .error .illegalValue
      else .ok (.setcfg
        { magsel := a
          hsel := flagAt opr 2
          rails := flagAt opr 3
          envdec := flagAt opr 4
          envzs := flagAt opr 5
          ratio := opr.extractLsb' 8 4 })

/-- Format X (R62, R65): bits 23:16 reserved, then the 16-bit index. -/
def decodeIndex (mk : BitVec 16 → Instr) (opr : BitVec 24) : Except Cause Instr :=
  if opr.extractLsb' 16 8 ≠ 0 then .error .reservedNonzero else .ok (mk (opr.extractLsb' 0 16))

/-- `Decode(w)` of R70 over the opcode map of R67. Every word gets a command or exactly one cause (R71). -/
def decode (w : Word) : Except Cause Instr :=
  match (opcodeField w).toNat with
  | 0x00 => decodeBare .nop (operandField w)
  | 0x01 => decodeMode (operandField w)
  | 0x02 => decodeConfig (operandField w)
  | 0x03 => decodeBare .rdcfg (operandField w)
  | 0x04 => decodeBare .rdpos (operandField w)
  | 0x05 => decodeIndex .rdmag (operandField w)
  | 0x06 => decodeIndex .rdph (operandField w)
  | 0x07 => decodeBare .rddbg (operandField w)
  | 0x0F => decodeBare .clrf (operandField w)
  | 0x10 => decodeBare .sat16 (operandField w)
  | 0x11 => decodeBare .abs16 (operandField w)
  | 0x12 => decodeBare .isqrt (operandField w)
  | 0x14 => decodeBare .ssbu (operandField w)
  | 0x15 => decodeBare .ssbl (operandField w)
  | 0x18 => decodeBare .magf (operandField w)
  | 0x19 => decodeBare .magf2 (operandField w)
  | 0x1A => decodeBare .magx (operandField w)
  | 0x1B => decodeBare .mags (operandField w)
  | 0x20 => decodeBare .phase (operandField w)
  | 0x28 => decodeBare .hstep (operandField w)
  | 0x30 => decodeBare .dstep (operandField w)
  | 0x31 => decodeBare .dpub (operandField w)
  | 0x40 => decodeBare .process (operandField w)
  | _ => .error .illegalOpcode

/-- The opcode of a command (R67). -/
def opcodeOf : Instr → BitVec 8
  | .nop => 0x00
  | .setmode _ => 0x01
  | .setcfg _ => 0x02
  | .rdcfg => 0x03
  | .rdpos => 0x04
  | .rdmag _ => 0x05
  | .rdph _ => 0x06
  | .rddbg => 0x07
  | .clrf => 0x0F
  | .sat16 => 0x10
  | .abs16 => 0x11
  | .isqrt => 0x12
  | .ssbu => 0x14
  | .ssbl => 0x15
  | .magf => 0x18
  | .magf2 => 0x19
  | .magx => 0x1A
  | .mags => 0x1B
  | .phase => 0x20
  | .hstep => 0x28
  | .dstep => 0x30
  | .dpub => 0x31
  | .process => 0x40

/-- The CFG word (R20): RATIO 11:8, 7:6 zero, ENVZS 5, ENVDEC 4, RAILS 3, HSEL 2, MAGSEL 1:0. -/
def Cfg.word (c : Cfg) : BitVec 12 :=
  c.ratio ++ (0#2) ++ BitVec.ofBool c.envzs ++ BitVec.ofBool c.envdec ++ BitVec.ofBool c.rails ++
    BitVec.ofBool c.hsel ++ c.magsel.code

/-- The operand field of a command in its format (R62). -/
def operandOf : Instr → BitVec 24
  | .setmode m => (0#21) ++ m.code
  | .setcfg c => (0#12) ++ c.word
  | .rdmag k | .rdph k => (0#8) ++ k
  | .nop | .rdcfg | .rdpos | .rddbg | .clrf => 0
  | .sat16 | .abs16 | .isqrt | .ssbu | .ssbl | .magf | .magf2 | .magx | .mags | .phase => 0
  | .hstep | .dstep | .dpub | .process => 0

/-- The mutating commands (R67, R73): they write configuration, filter, decimation or report state. -/
def Instr.mutating : Instr → Bool
  | .setmode _ | .setcfg _ | .hstep | .dstep | .dpub => true
  | .nop | .rdcfg | .rdpos | .rdmag _ | .rdph _ | .rddbg | .clrf => false
  | .sat16 | .abs16 | .isqrt | .ssbu | .ssbl | .magf | .magf2 | .magx | .mags | .phase => false
  | .process => false

/-- The command word of a command (R61). -/
def encode (i : Instr) : Word := opcodeOf i ++ operandOf i

/-- The host's question: the command the decoder reads from an `nbits`-bit instruction whose bits are `w`. A command is one
32-bit word (R61, R69). -/
def decodeTableWord (nbits w : Nat) : Option Instr :=
  (decode (BitVec.ofNat 32 (w % 2 ^ nbits))).toOption

end Sys2Proof
end

