-- ==== Sys2Proof/Config.lean ====
section
/-! DEFINITION. The implementation parameters of spec R5, their legal ranges and their reference values (R97),
and the constants the source fixes. The parameters are one record, `Params`, carried in the machine's state and written by
no step (log entry 1), so that a statement about every state covers every legal parameter value. -/

namespace Sys2Proof

/-- The parameters of R5 that a rule of the model reads. T_BLOCK and N_INST are read by no rule (log entries 14, 15). -/
structure Params where
  /-- `L` (BLOCK_LEN): samples per block and length of the report buffer. -/
  blockLen : Nat
  /-- `COEF_W[0..7]`, the windowed set (HSEL = 0). -/
  coefW : Vector Nat 8
  /-- `COEF_U[0..7]`, the unwindowed set (HSEL = 1). -/
  coefU : Vector Nat 8
  /-- `QT`: phase units per quarter turn. -/
  qt : Nat
  /-- `ATAN_K`: the correction constant of the arctangent polynomial, Q15. -/
  atanK : Nat
  /-- `HOST_BASE`: the base address of port H on the host bus. -/
  hostBase : Nat
  deriving DecidableEq, Repr

namespace Config

/-- `NT`: the Hilbert taps (R5). -/
def taps : Nat := 31

/-- `CTR`: the centre tap (R5). -/
def centre : Nat := 15

/-- `NP`: the antisymmetric tap pairs (R5). -/
def pairs : Nat := 8

/-- `RATIO_MAX`: the largest decimation ratio (R5). -/
def ratioMax : Nat := 15

/-- The 32 bytes of the port H window (R40). -/
def windowBytes : Nat := 32

/-- The reference values of R5 and R97. `HOST_BASE` is OPEN there: 0 is a DESIGN CHOICE (log entry 10). -/
def reference : Params where
  blockLen := 128
  coefW := #v[20655, 6354, 3235, 1786, 962, 472, 193, 51]
  coefU := #v[20861, 6954, 4172, 2980, 2318, 1896, 1605, 1391]
  qt := 8192
  atanK := 5695
  hostBase := 0

end Config

/-- The legal values of R5: L a power of two from 2 to 32768, every coefficient at most 32767, QT from 1 to 16383, ATAN_K
at most 16383, HOST_BASE word-aligned. -/
structure Params.Legal (p : Params) : Prop where
  blockLen_pow : ∃ e, 1 ≤ e ∧ e ≤ 15 ∧ p.blockLen = 2 ^ e
  coefW_le : ∀ k : Fin 8, p.coefW[k] ≤ 32767
  coefU_le : ∀ k : Fin 8, p.coefU[k] ≤ 32767
  qt_pos : 1 ≤ p.qt
  qt_le : p.qt ≤ 16383
  atanK_le : p.atanK ≤ 16383
  hostBase_aligned : p.hostBase % 4 = 0

end Sys2Proof
end

