-- ==== Sys2Proof/Machine/State.lean ====
section
/-! DEFINITION. The state of one core instance (spec R10), of the transport's blocks as the core sees them (R31), and the
plain data that stands for what the agents around the core still have to do. `State.reset` is the state after reset (R33). -/

namespace Sys2Proof.Machine

/-- An array of `w`-bit elements by index, as (index, element) pairs in one canonical form: indices strictly rising, no pair
whose element is 0, which is what an unlisted index reads as (log entry 8). It holds the report arrays MAG and PH (R25, R26) and
the sample blocks (R31), whose unit is one whole sample (R43, R44). -/
abbrev Memory (w : Nat) := List (Nat × BitVec w)

/-- The canonical form of `Memory`. -/
abbrev Memory.wf {w : Nat} (m : Memory w) : Prop :=
  m.Pairwise (fun a b => a.1 < b.1) ∧ ∀ c ∈ m, c.2 ≠ 0

/-- A Hilbert delay line (R21): 31 entries of 32 bits, index 0 the oldest. -/
abbrev DelayLine := Vector (BitVec 32) 31

/-- A transport event the core records (R152): ACQ r, REL r, PUB I. -/
inductive Event
  | acq (r : Rail)
  | rel (r : Rail)
  | pubI
  deriving DecidableEq, Repr

/-- What the host does in one step on its bus (R41): a read or a write of `size` bytes at a bus address, or one round of the
host-side loop `waitidle` (R75). -/
inductive HostAct
  | read (addr size : Nat)
  | write (addr size : Nat) (data : BitVec 32)
  | waitidle
  deriving DecidableEq, Repr

/-- What the transport does in one step (R60, R150): pulse TICK, offer a block of samples on a rail, or withdraw the offer. -/
inductive TransportAct
  | tick
  | offer (r : Rail) (samples : List (BitVec 16))
  | withdraw (r : Rail)
  deriving DecidableEq, Repr

/-- Who takes the next atomic step of the interleaving (R50), the platform's reset (R190) among them. A reset carries what the
transport does that restarts with the core (R191), or `none` for a transport that does not restart (log entry 11). -/
inductive Turn
  | host | transport | pipeline
  | reset (restarted : Option (List TransportAct))
  deriving DecidableEq, Repr

/-- Why the model's machine stops. The core itself never stops: its own faults (R170) are next states. -/
inductive Fault
  /-- A sample step would read or write a block element where R44 makes no such access legal: the rail is not held, the mode does
  not publish I, or the index is not below L. Raised by the sample steps; no state that meets the invariant `Inv` raises it.
  Safe: the model stops where the spec gives nothing. -/
  | illegalElementAccess
  /-- BUSY = 1 in IDLE: no sample step is defined there (R157 to R159). Raised by the pipeline's step; no state that meets
  `Inv` raises it. Safe. -/
  | noSampleStep
  deriving DecidableEq, Repr

/-- Why the model gives no meaning to a step. -/
inductive Refusal
  /-- A command without a meaning yet. No arm of `exec` answers so. Safe. -/
  | notModelled (mnemonic : String)
  /-- The transport changes what it offers while a block process is in progress, against its duty R154 (2 and 3);
  93_implementation_defined U9 has the model refuse it. Raised by the transport's step. Safe. -/
  | transportBreach
  /-- The transport offers something other than L samples, which is no block (R31). Raised by the transport's step. Safe. -/
  | notABlock
  /-- A reset during a block process with a transport that does not restart with the core (R191); 93_implementation_defined U17 has
  the model refuse it. Raised by the reset's step. Safe. -/
  | transportNotRestarted
  deriving DecidableEq, Repr

/-- The state. Each field cites the rule that names it. -/
structure State where
  /-- The instance's parameters (R5), written by no step (log entry 1). -/
  par : Params
  /-- MODE (R19). -/
  mode : Mode
  /-- CFG (R20). -/
  cfg : Cfg
  /-- DL_I (R21). -/
  dlI : DelayLine
  /-- DL_Q (R21). -/
  dlQ : DelayLine
  /-- REM (R22). -/
  rem : BitVec 4
  /-- WIDX (R23). -/
  widx : Nat
  /-- RPOS (R24). -/
  rpos : Nat
  /-- AVAIL (R17). -/
  avail : Bool
  /-- MAG (R25). -/
  mag : Memory 15
  /-- PH (R26). -/
  ph : Memory 16
  /-- ARG0 (R13). -/
  arg0 : BitVec 32
  /-- ARG1 (R13). -/
  arg1 : BitVec 32
  /-- RES0 (R14). -/
  res0 : BitVec 32
  /-- RES1 (R14). -/
  res1 : BitVec 32
  /-- BUSY (R16). -/
  busy : Bool
  /-- FAULT (R18). -/
  fault : Bool
  /-- FCAUSE (R18, R171). -/
  fcause : Cause
  /-- SIDX (R28). -/
  sidx : Nat
  /-- ACQ_I (R28). -/
  acqI : Bool
  /-- ACQ_Q (R28). -/
  acqQ : Bool
  /-- The host's mutating command whose CMD write is held (R176). -/
  held : Option Instr
  /-- PRESENT_I (R31), the transport's. -/
  presentI : Bool
  /-- PRESENT_Q (R31), the transport's. -/
  presentQ : Bool
  /-- BLK_I (R31), the transport's. -/
  blkI : Memory 16
  /-- BLK_Q (R31), the transport's. -/
  blkQ : Memory 16
  /-- EVENTS (R152), oldest first. -/
  events : List Event
  /-- The downstream copies of the published I blocks (R153), oldest first. -/
  published : List (Memory 16)
  /-- MODEL: the data the core last returned to a host read (R41; log entry 10). -/
  busData : BitVec 32
  /-- MODEL: what the host has yet to do, in program order (R50; log entry 3). -/
  hostIn : List HostAct
  /-- MODEL: what the transport has yet to do, in order (log entry 5). -/
  transIn : List TransportAct
  /-- MODEL: whose turn each coming step is (R50; log entry 2). -/
  turns : List Turn
  deriving DecidableEq, Repr

/-- A delay line of zeros (R30, R33). -/
def DelayLine.zero : DelayLine := Vector.replicate 31 0

/-- The reset configuration, CFG = 0x601 (R20, R33). -/
def resetCfg : Cfg where
  magsel := .fast2
  hsel := false
  rails := false
  envdec := false
  envzs := false
  ratio := 6

/-- The machine right after reset (R33), with the reference parameters. The fields of the transport and the model's own fields
have no reset value in the spec: log entries 1, 2, 3, 5, 6, 9 and 10 name theirs. -/
def State.reset : State where
  par := Config.reference
  mode := .idle
  cfg := resetCfg
  dlI := DelayLine.zero
  dlQ := DelayLine.zero
  rem := 0
  widx := 0
  rpos := 0
  avail := false
  mag := []
  ph := []
  arg0 := 0
  arg1 := 0
  res0 := 0
  res1 := 0
  busy := false
  fault := false
  fcause := .none
  sidx := 0
  acqI := false
  acqQ := false
  held := none
  presentI := false
  presentQ := false
  blkI := []
  blkQ := []
  events := []
  published := []
  busData := 0
  hostIn := []
  transIn := []
  turns := []

end Sys2Proof.Machine
end

