-- ==== Sys2Proof/Machine/Ops.lean ====
section
/-! DEFINITION. The named operations over arrays, blocks, events and registers, and the one shared operation that raises a
fault (spec R172) with the one that clears it (R146). -/

namespace Sys2Proof.Machine

/-- The element at index `k`; an unlisted index reads 0. -/
def Memory.read {w : Nat} : Memory w → Nat → BitVec w
  | [], _ => 0
  | (a, v) :: rest, k => if a = k then v else Memory.read rest k

/-- Store `v` at index `k`, keeping the canonical form. -/
def Memory.write {w : Nat} : Memory w → Nat → BitVec w → Memory w
  | [], k, v => if v = 0 then [] else [(k, v)]
  | (a, x) :: rest, k, v =>
    if k < a then (if v = 0 then (a, x) :: rest else (k, v) :: (a, x) :: rest)
    else if k = a then (if v = 0 then rest else (k, v) :: rest)
    else (a, x) :: Memory.write rest k v

/-- The array that holds the listed elements from index `n` on. -/
def Memory.ofListFrom {w : Nat} : Nat → List (BitVec w) → Memory w
  | _, [] => []
  | n, v :: rest => if v = 0 then Memory.ofListFrom (n + 1) rest else (n, v) :: Memory.ofListFrom (n + 1) rest

/-- The array of a list of elements, the first at index 0. -/
def Memory.ofList {w : Nat} (vs : List (BitVec w)) : Memory w := Memory.ofListFrom 0 vs

/-- `raise Fault(c)` (R172): FAULT is set, and FCAUSE keeps the first cause. -/
def State.raiseFault (c : Cause) (s : State) : State :=
  { s with
    fault := true
    fcause := if s.fault then s.fcause else c }

/-- The way out of the fault state (R146, R178). -/
def State.clearFault (s : State) : State :=
  { s with
    fault := false
    fcause := .none }

/-- `RES0 <- v` (R14). -/
def State.setRes0 (v : BitVec 32) (s : State) : State := { s with res0 := v }

/-- `RES1 <- v` (R14). -/
def State.setRes1 (v : BitVec 32) (s : State) : State := { s with res1 := v }

/-- `ClearPipeline` (R30). -/
def State.clearPipeline (s : State) : State :=
  { s with
    dlI := DelayLine.zero
    dlQ := DelayLine.zero
    rem := 0
    widx := 0
    rpos := 0
    avail := false
    mag := []
    ph := [] }

/-- The reset of R190 in one step: every piece of state of R33 at its reset value, the parameters kept, a held host command
dropped and no event recorded (R191). What belongs to the agents around the core is theirs (log entry 11). -/
def State.resetCore (s : State) : State :=
  { State.reset with
    par := s.par
    presentI := s.presentI
    presentQ := s.presentQ
    blkI := s.blkI
    blkQ := s.blkQ
    events := s.events
    published := s.published
    busData := s.busData
    hostIn := s.hostIn
    transIn := s.transIn
    turns := s.turns }

/-- The transport restarts and takes back its blocks (R191): nothing is on offer any more, what it had yet to do is abandoned, and
`acts` is what the restarted transport does. DEDUCED: R191 says only that it takes back its blocks (log entry 11). -/
def State.restartTransport (acts : List TransportAct) (s : State) : State :=
  { s with
    presentI := false
    presentQ := false
    transIn := acts }

/-- The hold of R176: a mutating command issued while BUSY = 1 waits, as the host's outstanding CMD write; otherwise it has
its effect `body`. -/
def State.heldWhileBusy (s : State) (i : Instr) (body : State) : State :=
  if s.busy then { s with held := some i } else body

/-- `Event(e)` (R152). -/
def State.record (e : Event) (s : State) : State := { s with events := s.events ++ [e] }

/-- PRESENT_r (R31). -/
def State.present (s : State) : Rail → Bool
  | .i => s.presentI
  | .q => s.presentQ

/-- ACQ_r (R28). -/
def State.acquired (s : State) : Rail → Bool
  | .i => s.acqI
  | .q => s.acqQ

/-- BLK_r (R31). -/
def State.block (s : State) : Rail → Memory 16
  | .i => s.blkI
  | .q => s.blkQ

/-- Set ACQ_r. -/
def State.setAcquired (r : Rail) (b : Bool) (s : State) : State :=
  match r with
  | .i => { s with acqI := b }
  | .q => { s with acqQ := b }

/-- Acquire the block of rail `r` (R150). -/
def State.acquire (r : Rail) (s : State) : State := (s.record (.acq r)).setAcquired r true

/-- Release the block of rail `r` (R151). -/
def State.release (r : Rail) (s : State) : State := (s.record (.rel r)).setAcquired r false

/-- Publish the I block (R153): the event, and the copy the transport takes of the block before its release. -/
def State.publishI (s : State) : State :=
  { s with
    events := s.events ++ [.pubI]
    published := s.published ++ [s.blkI] }

/-- The modes that write and publish the I block (R149). -/
def publishes : Mode → Bool
  | .envelope | .ssbUsb | .ssbLsb => true
  | .idle | .report => false

/-- `BlkRead(r, n)` (R44): legal while ACQ_r = 1, for n below L. -/
def blkRead (r : Rail) (n : Nat) (s : State) : Option Sample :=
  if s.acquired r ∧ n < s.par.blockLen then some (Memory.read (s.block r) n) else none

/-- `BlkWrite(I, n, v)` (R44): legal while ACQ_I = 1 in a mode that publishes I, for n below L. -/
def blkWriteI (n : Nat) (v : Int) (s : State) : Option State :=
  if s.acqI ∧ publishes s.mode ∧ n < s.par.blockLen then
    some { s with blkI := Memory.write s.blkI n (BitVec.ofInt 16 v) }
  else none

end Sys2Proof.Machine
end

