-- ==== Sys2Proof/Machine/Flags.lean ====
section
/-! DEFINITION. The STATUS word (spec R15) and the availability latch (R17, R121). -/

namespace Sys2Proof.Machine

/-- STATUS (R15): MODE 10:8, FCAUSE 7:4, FAULT 2, AVAIL 1, BUSY 0; every other bit reads 0. -/
def statusWord (s : State) : BitVec 32 :=
  (0#21) ++ s.mode.code ++ s.fcause.code ++ (0#1) ++ BitVec.ofBool s.fault ++ BitVec.ofBool s.avail ++
    BitVec.ofBool s.busy

/-- AVAIL after a write that leaves the write index at `widx` (R121): set once the index is in the second half, never cleared. -/
def availAfter (blockLen widx : Nat) (avail : Bool) : Bool := avail || decide (blockLen / 2 ≤ widx)

end Sys2Proof.Machine
end

