-- ==== Sys2Proof/Machine/Operands.lean ====
section
/-! DEFINITION. The operand forms of spec R64: every command of format R reads ARG0 and ARG1 in one of these ways. -/

namespace Sys2Proof.Machine

/-- `sext_32(ARG0)`. -/
def argSigned0 (s : State) : Int := s.arg0.toInt

/-- `sext_32(ARG1)`. -/
def argSigned1 (s : State) : Int := s.arg1.toInt

/-- `zext_32(ARG0)`. -/
def argUnsigned0 (s : State) : Nat := s.arg0.toNat

/-- `ARG0[15:0]`, read as a sample; the upper half is ignored. -/
def argSample0 (s : State) : Sample := s.arg0.extractLsb' 0 16

/-- `ARG1[15:0]`, read as a sample; the upper half is ignored. -/
def argSample1 (s : State) : Sample := s.arg1.extractLsb' 0 16

/-- `enc_32(x)` of an integer result (R6). -/
def enc32 (x : Int) : BitVec 32 := BitVec.ofInt 32 x

/-- `zext_32(n)` of an unsigned result (R6). -/
def zext32 (n : Nat) : BitVec 32 := BitVec.ofNat 32 n

end Sys2Proof.Machine
end

