-- ==== Sys2Proof/Machine/FixedPoint.lean ====
section
/-! DEFINITION. The fixed-point helpers of spec 40_fixed_point.md and their commands SAT16, ABS16, ISQRT, SSBU, SSBL.
Arithmetic is on exact integers (R89): nothing wraps. -/

namespace Sys2Proof.Machine

/-- `clamp(v, lo, hi)` (R6). -/
def clamp (v lo hi : Int) : Int := if v < lo then lo else if hi < v then hi else v

/-- `Sat16(v)` (R80): the symmetric clip to -32767..32767. -/
def sat16 (v : Int) : Int := clamp v (-32767) 32767

/-- `Abs(v)` of a sample (R82): 0 to 32768, never wrapped. -/
def absSample (x : Sample) : Nat := x.toInt.natAbs

/-- One iteration of `ISqrt` (R84): bring down the two bits of `s` at position `30 - 2k`, decide one bit of the root. The pair is
(rem, root). -/
def isqrtStep (s : Nat) (acc : Nat × Nat) (k : Nat) : Nat × Nat :=
  let rem := acc.1 * 4 + s / 2 ^ (30 - 2 * k) % 4
  let root := acc.2 * 2
  let trial := root * 2 + 1
  if trial ≤ rem then (rem - trial, root + 1) else (rem, root)

/-- `ISqrt(s)` (R84): 16 iterations of the digit-by-digit square root of a 32-bit value. -/
def isqrt (s : Nat) : Nat := ((List.range 16).foldl (isqrtStep s) (0, 0)).2

/-- `Combine(d, h, sb)` (R86): add for the upper sideband, subtract for the lower, then saturate. -/
def combine (d h : Int) : Sideband → Int
  | .usb => sat16 (d + h)
  | .lsb => sat16 (d - h)

/-- SAT16 (R81). -/
def execSat16 (s : State) : Host.Outcome State Fault Refusal :=
  .next (s.setRes0 (enc32 (sat16 (argSigned0 s))))

/-- ABS16 (R83). -/
def execAbs16 (s : State) : Host.Outcome State Fault Refusal :=
  .next (s.setRes0 (zext32 (absSample (argSample0 s))))

/-- ISQRT (R85). -/
def execIsqrt (s : State) : Host.Outcome State Fault Refusal :=
  .next (s.setRes0 (zext32 (isqrt (argUnsigned0 s))))

/-- SSBU (R87). -/
def execSsbu (s : State) : Host.Outcome State Fault Refusal :=
  .next (s.setRes0 (enc32 (combine (argSigned0 s) (argSigned1 s) .usb)))

/-- SSBL (R88). -/
def execSsbl (s : State) : Host.Outcome State Fault Refusal :=
  .next (s.setRes0 (enc32 (combine (argSigned0 s) (argSigned1 s) .lsb)))

end Sys2Proof.Machine
end

