-- ==== Sys2Proof/Machine/Magnitude.lean ====
section
/-! DEFINITION. The magnitude estimators of spec 42_magnitude.md and their commands MAGF, MAGF2, MAGX, MAGS. Every `>> n` of a
non-negative value is the division by `2 ^ n` that rounds down (R6). -/

namespace Sys2Proof.Machine

/-- `Clip15(v)` (R100). -/
def clip15 (v : Nat) : Nat := min v 32767

/-- `mx` of R100. -/
def magMax (i q : Sample) : Nat := max (absSample i) (absSample q)

/-- `mn` of R100. -/
def magMin (i q : Sample) : Nat := min (absSample i) (absSample q)

/-- `MagFast(i, q)` (R101): each product is shifted by itself. -/
def magFast (i q : Sample) : Nat := clip15 (magMax i q * 31 / 32 + magMin i q * 3 / 8)

/-- `MagFast2(i, q)` (R102). -/
def magFast2 (i q : Sample) : Nat :=
  if magMin i q ≤ magMax i q / 4 then clip15 (magMax i q)
  else clip15 (magMax i q * 7 / 8 + magMin i q / 2)

/-- `MagExact(i, q)` (R103). -/
def magExact (i q : Sample) : Nat := clip15 (isqrt (absSample i * absSample i + absSample q * absSample q))

/-- The magnitude by a named algorithm. -/
def magBy : MagAlg → Sample → Sample → Nat
  | .fast => magFast
  | .fast2 => magFast2
  | .exact => magExact

/-- `MagSel(i, q)` (R104): by the algorithm CFG.MAGSEL selects. -/
def magSel (s : State) (i q : Sample) : Nat := magBy s.cfg.magsel i q

/-- MAGF (R105). -/
def execMagf (s : State) : Host.Outcome State Fault Refusal :=
  .next (s.setRes0 (zext32 (magFast (argSample0 s) (argSample1 s))))

/-- MAGF2 (R106). -/
def execMagf2 (s : State) : Host.Outcome State Fault Refusal :=
  .next (s.setRes0 (zext32 (magFast2 (argSample0 s) (argSample1 s))))

/-- MAGX (R107). -/
def execMagx (s : State) : Host.Outcome State Fault Refusal :=
  .next (s.setRes0 (zext32 (magExact (argSample0 s) (argSample1 s))))

/-- MAGS (R108). -/
def execMags (s : State) : Host.Outcome State Fault Refusal :=
  .next (s.setRes0 (zext32 (magSel s (argSample0 s) (argSample1 s))))

end Sys2Proof.Machine
end

