-- ==== Sys2Proof/Machine/Phase.lean ====
section
/-! DEFINITION. The phase estimator of spec 43_phase.md and its command PHASE. -/

namespace Sys2Proof.Machine

/-- `F(z)` (R110), the first-octant polynomial, for a Q15 ratio `z` in 0..32768. -/
def octant (p : Params) (z : Nat) : Nat := p.qt * z * (2 ^ 29 + p.atanK * (32768 - z)) / 2 ^ 45

/-- The first-quadrant angle of R111: the ratio of the smaller absolute value to the larger, the polynomial, the complement
when |Q| > |I|, and 0 at the origin. -/
def quadrantAngle (p : Params) (aq ai : Nat) : Int :=
  if ai < aq then (p.qt : Int) - octant p (ai * 32768 / aq)
  else if ai = 0 then 0
  else octant p (aq * 32768 / ai)

/-- `Phase(q, i)` (R111), Q first: reflect across the I < 0 boundary, then negate across the Q < 0 boundary. -/
def phaseOf (p : Params) (q i : Sample) : Int :=
  let r := quadrantAngle p (absSample q) (absSample i)
  let r := if i.toInt < 0 then 2 * (p.qt : Int) - r else r
  if q.toInt < 0 then -r else r

/-- PHASE (R113): Q in ARG0, I in ARG1. -/
def execPhase (s : State) : Host.Outcome State Fault Refusal :=
  .next (s.setRes0 (enc32 (phaseOf s.par (argSample0 s) (argSample1 s))))

end Sys2Proof.Machine
end

