-- ==== Sys2Proof/Machine/Decimator.lean ====
section
/-! DEFINITION. The decimator and report buffer of spec 44_decimator.md and their commands DSTEP, DPUB, RDPOS, RDMAG, RDPH. -/

namespace Sys2Proof.Machine

/-- Does the sample that now comes complete a run of RATIO samples? The test `REM >= RATIO` after the increment (R121). -/
def completesRun (s : State) : Bool := decide (s.cfg.ratio.toNat ≤ s.rem.toNat + 1)

/-- The remainder after a step (R121): counted up, or 0 when a run is complete. -/
def remAfter (s : State) : BitVec 4 := if completesRun s then 0 else s.rem + 1

/-- The write of a magnitude and phase pair at WIDX, the advance of WIDX and the latch (R121). -/
def writePair (i q : Sample) (s : State) : State :=
  let next := (s.widx + 1) % s.par.blockLen
  { s with
    mag := Memory.write s.mag s.widx (BitVec.ofNat 15 (magSel s i q))
    ph := Memory.write s.ph s.widx (BitVec.ofInt 16 (phaseOf s.par q i))
    widx := next
    avail := availAfter s.par.blockLen next s.avail }

/-- `DecimStep(i, q)` (R121), its state part. It wrote a pair exactly when `completesRun` held before it. -/
def decimStep (i q : Sample) (s : State) : State :=
  let t := { s with rem := remAfter s }
  if completesRun s then writePair i q t else t

/-- `RPOS <- WIDX` (R123, R161). -/
def publishPosition (s : State) : State := { s with rpos := s.widx }

/-- DSTEP (R122), held while BUSY = 1 (R176): RES0 says whether a pair was written. -/
def execDstep (s : State) : Host.Outcome State Fault Refusal :=
  .next (s.heldWhileBusy .dstep
    ((decimStep (argSample0 s) (argSample1 s) s).setRes0 (zext32 (completesRun s).toNat)))

/-- DPUB (R123), held while BUSY = 1 (R176). -/
def execDpub (s : State) : Host.Outcome State Fault Refusal :=
  .next (s.heldWhileBusy .dpub (publishPosition s))

/-- RDPOS (R124). -/
def execRdpos (s : State) : Host.Outcome State Fault Refusal := .next (s.setRes0 (zext32 s.rpos))

/-- A report read (R45, R125, R126): an index of L or more raises INDEX_RANGE and reads nothing. -/
def reportRead (k : BitVec 16) (v : BitVec 32) (s : State) : State :=
  if s.par.blockLen ≤ k.toNat then s.raiseFault .indexRange else s.setRes0 v

/-- RDMAG (R125): zero-extended. -/
def execRdmag (k : BitVec 16) (s : State) : Host.Outcome State Fault Refusal :=
  .next (reportRead k ((Memory.read s.mag k.toNat).zeroExtend 32) s)

/-- RDPH (R126): sign-extended. -/
def execRdph (k : BitVec 16) (s : State) : Host.Outcome State Fault Refusal :=
  .next (reportRead k ((Memory.read s.ph k.toNat).signExtend 32) s)

end Sys2Proof.Machine
end

