-- ==== Sys2Proof/Machine/Hilbert.lean ====
section
/-! DEFINITION. The Hilbert FIR filter of spec 41_hilbert.md and its command HSTEP. -/

namespace Sys2Proof.Machine

/-- `Coef(k)` (R90): the active coefficient set. -/
def coef (p : Params) (hsel : Bool) (k : Fin 8) : Int := if hsel then p.coefU[k] else p.coefW[k]

/-- One term of `HQ` (R91, R92): tap pair `k`, at offset `m = 2k + 1` about the centre, older minus newer. -/
def tapTerm (p : Params) (hsel : Bool) (dl : DelayLine) (k : Fin 8) : Int :=
  coef p hsel k * ((dl[15 - (2 * k.val + 1)]).toInt - (dl[15 + (2 * k.val + 1)]).toInt)

/-- `HQ(DL)` (R92): the exact sum of the eight tap pairs, shifted right by 15 with rounding toward minus infinity. -/
def hq (p : Params) (hsel : Bool) (dl : DelayLine) : Int :=
  ((List.finRange 8).map (tapTerm p hsel dl)).sum / 32768

/-- The FIFO shift of R93: `DL[j] <- DL[j+1]` for j in 0..29 drops the oldest entry, and the sample enters at index 30,
sign-extended. -/
def shiftIn (dl : DelayLine) (x : Sample) : DelayLine :=
  Vector.ofFn fun j : Fin 31 => if h : j.val < 30 then dl[j.val + 1] else x.signExtend 32

/-- The shifts of `HilbertStep(i, q)` (R93): both lines in dual rail, the I line alone in single rail. -/
def hilbertShift (i q : Sample) (s : State) : State :=
  if s.cfg.rails then { s with dlI := shiftIn s.dlI i }
  else { s with dlI := shiftIn s.dlI i, dlQ := shiftIn s.dlQ q }

/-- `I_d` of R93, read after the shift: the in-phase sample of 15 steps earlier. -/
def delayedI (s : State) : Int := (s.dlI[15]).toInt

/-- `Q_h` of R93, computed after the shift: from the Q line in dual rail, from the I line in single rail. -/
def filteredQ (s : State) : Int := hq s.par s.cfg.hsel (if s.cfg.rails then s.dlI else s.dlQ)

/-- HSTEP (R94), held while BUSY = 1 (R176). -/
def execHstep (s : State) : Host.Outcome State Fault Refusal :=
  let t := hilbertShift (argSample0 s) (argSample1 s) s
  .next (s.heldWhileBusy .hstep ((t.setRes0 (enc32 (delayedI t))).setRes1 (enc32 (filteredQ t))))

end Sys2Proof.Machine
end

