-- ==== Sys2Proof/Machine/Block.lean ====
section
/-! DEFINITION. The block process of spec 45_dispatcher.md: PROCESS with its start, drain and prologue, the sample step of each
mode, and the epilogue. -/

namespace Sys2Proof.Machine

/-- Does a mode need the block of rail I (R149)? -/
def needsI : Mode → Bool
  | .idle => false
  | .envelope | .ssbUsb | .ssbLsb | .report => true

/-- Does a mode need the block of rail Q (R149)? RAILS matters in the SSB modes only. -/
def needsQ (m : Mode) (rails : Bool) : Bool :=
  match m with
  | .idle => false
  | .envelope | .report => true
  | .ssbUsb | .ssbLsb => !rails

/-- Does a PROCESS drain and process no samples (R148)? -/
def drains (s : State) : Bool :=
  decide (s.mode = .idle) || (needsI s.mode && !s.presentI) || (needsQ s.mode s.cfg.rails && !s.presentQ)

/-- Acquire and release the block of one rail, if present (R155). -/
def drainRail (r : Rail) (s : State) : State :=
  if s.present r then (s.record (.acq r)).record (.rel r) else s

/-- `Drain()` (R155). -/
def drain (s : State) : State := drainRail .q (drainRail .i s)

/-- `Prologue()` (R156). The Q block is acquired when present, also when it is not needed. -/
def prologue (s : State) : State :=
  let t := State.acquire .i { s with busy := true, sidx := 0 }
  if t.presentQ then t.acquire .q else t

/-- `Start()` (R148). -/
def start (s : State) : State := if drains s then drain s else prologue s

/-- PROCESS (R147): a trigger while BUSY = 1 is dropped with OVERRUN. -/
def execProcess (s : State) : Host.Outcome State Fault Refusal :=
  .next (if s.busy then s.raiseFault .overrun else start s)

/-- `SIDX <- n + 1`, the end of every sample step (R157 to R159). -/
def advance (s : State) : State := { s with sidx := s.sidx + 1 }

/-- What the ENVELOPE step writes at the current sample, if anything (R157): the magnitude, silence, or nothing. -/
def envOutput (i q : Sample) (s : State) : Option Int :=
  if !s.cfg.envdec || completesRun s then some (magSel s i q)
  else if s.cfg.envzs then some 0
  else none

/-- REM after the ENVELOPE step (R157): counted only when ENVDEC = 1. -/
def envRem (s : State) : BitVec 4 := if s.cfg.envdec then remAfter s else s.rem

/-- The ENVELOPE sample step (R157). -/
def envStep (s : State) : Host.Outcome State Fault Refusal :=
  match blkRead .i s.sidx s, blkRead .q s.sidx s with
  | some i, some q =>
    let t := { s with rem := envRem s }
    match envOutput i q s with
    | none => .next (advance t)
    | some v =>
      match blkWriteI s.sidx v t with
      | some u => .next (advance u)
      | none => .fault .illegalElementAccess
  | _, _ => .fault .illegalElementAccess

/-- The Q sample of the SSB step (R158): not read in single rail. -/
def ssbQ (s : State) : Option Sample := if s.cfg.rails then some 0 else blkRead .q s.sidx s

/-- The SSB sample step (R158). -/
def ssbStep (sb : Sideband) (s : State) : Host.Outcome State Fault Refusal :=
  match blkRead .i s.sidx s, ssbQ s with
  | some i, some q =>
    let t := hilbertShift i q s
    match blkWriteI s.sidx (combine (delayedI t) (filteredQ t) sb) t with
    | some u => .next (advance u)
    | none => .fault .illegalElementAccess
  | _, _ => .fault .illegalElementAccess

/-- The REPORT sample step (R159). -/
def repStep (s : State) : Host.Outcome State Fault Refusal :=
  match blkRead .i s.sidx s, blkRead .q s.sidx s with
  | some i, some q => .next (advance (decimStep i q s))
  | _, _ => .fault .illegalElementAccess

/-- The sample step of the current mode (R148). -/
def sampleStep (s : State) : Host.Outcome State Fault Refusal :=
  match s.mode with
  | .idle => .fault .noSampleStep
  | .envelope => envStep s
  | .ssbUsb => ssbStep .usb s
  | .ssbLsb => ssbStep .lsb s
  | .report => repStep s

/-- The publish of the epilogue (R161): the position in REPORT, the I block in the other modes. -/
def epiloguePublish (s : State) : State := if s.mode = .report then publishPosition s else s.publishI

/-- The releases of the epilogue (R161). -/
def epilogueRelease (s : State) : State :=
  let t := s.release .i
  if t.acqQ then t.release .q else t

/-- `Epilogue()` (R161). -/
def epilogue (s : State) : State :=
  { epilogueRelease (epiloguePublish s) with
    busy := false
    sidx := 0 }

/-- One step of the pipeline agent (R148): nothing while BUSY = 0; else the next sample step, and after the last the epilogue. -/
def pipelineStep (s : State) : Host.Outcome State Fault Refusal :=
  if !s.busy then .next s
  else if s.sidx < s.par.blockLen then sampleStep s
  else .next (epilogue s)

end Sys2Proof.Machine
end

