-- ==== Sys2Proof/Machine/Control.lean ====
section
/-! DEFINITION. The configuration and control commands of spec 45_dispatcher.md: NOP, SETMODE, SETCFG, RDCFG, RDDBG, CLRF. -/

namespace Sys2Proof.Machine

/-- NOP (R140). -/
def execNop (s : State) : Host.Outcome State Fault Refusal := .next s

/-- SETMODE (R141), held while BUSY = 1 (R176): the mode is set and the pipeline cleared. -/
def execSetmode (m : Mode) (s : State) : Host.Outcome State Fault Refusal :=
  .next (s.heldWhileBusy (.setmode m) (State.clearPipeline { s with mode := m }))

/-- SETCFG (R142), held while BUSY = 1 (R176): all six fields at once, the pipeline untouched. RATIO = 0 is refused by the decoder
before it comes here (R70), and raises the same ILLEGAL_VALUE here (log entry 17). -/
def execSetcfg (c : Cfg) (s : State) : Host.Outcome State Fault Refusal :=
  .next (if c.ratio = 0 then s.raiseFault .illegalValue else s.heldWhileBusy (.setcfg c) { s with cfg := c })

/-- RDCFG (R143). -/
def execRdcfg (s : State) : Host.Outcome State Fault Refusal :=
  .next ((s.setRes0 (s.cfg.word.zeroExtend 32)).setRes1 (s.mode.code.zeroExtend 32))

/-- RDDBG (R144). -/
def execRddbg (s : State) : Host.Outcome State Fault Refusal :=
  .next ((s.setRes0 (s.rem.zeroExtend 32)).setRes1 (zext32 s.widx))

/-- CLRF (R146). -/
def execClrf (s : State) : Host.Outcome State Fault Refusal := .next s.clearFault

end Sys2Proof.Machine
end

