-- ==== Sys2Proof/Machine/Dispatch.lean ====
section
/-! DEFINITION. The dispatch of a command to its meaning, one arm per constructor of `Instr`. -/

namespace Sys2Proof.Machine

def exec (i : Instr) (s : State) : Host.Outcome State Fault Refusal :=
  match i with
  | .nop => Sys2Proof.Machine.execNop s
  | .setmode m => Sys2Proof.Machine.execSetmode m s
  | .setcfg c => Sys2Proof.Machine.execSetcfg c s
  | .rdcfg => Sys2Proof.Machine.execRdcfg s
  | .rdpos => Sys2Proof.Machine.execRdpos s
  | .rdmag k => Sys2Proof.Machine.execRdmag k s
  | .rdph k => Sys2Proof.Machine.execRdph k s
  | .rddbg => Sys2Proof.Machine.execRddbg s
  | .clrf => Sys2Proof.Machine.execClrf s
  | .sat16 => Sys2Proof.Machine.execSat16 s
  | .abs16 => Sys2Proof.Machine.execAbs16 s
  | .isqrt => Sys2Proof.Machine.execIsqrt s
  | .ssbu => Sys2Proof.Machine.execSsbu s
  | .ssbl => Sys2Proof.Machine.execSsbl s
  | .magf => Sys2Proof.Machine.execMagf s
  | .magf2 => Sys2Proof.Machine.execMagf2 s
  | .magx => Sys2Proof.Machine.execMagx s
  | .mags => Sys2Proof.Machine.execMags s
  | .phase => Sys2Proof.Machine.execPhase s
  | .hstep => Sys2Proof.Machine.execHstep s
  | .dstep => Sys2Proof.Machine.execDstep s
  | .dpub => Sys2Proof.Machine.execDpub s
  | .process => Sys2Proof.Machine.execProcess s

end Sys2Proof.Machine
end

