-- ==== Sys2Proof/Machine/Agents.lean ====
section
/-! DEFINITION. The agents around the core and their atomic steps (spec R50): the host on port H (R41), the transport on port T
(R60, R150), the pipeline, the platform's reset (R190), and the choice of whose step comes next. -/

namespace Sys2Proof.Machine

/-- The registers of the port H window (R40). -/
inductive PortReg
  | cmd | arg0 | arg1 | res0 | res1 | status
  deriving DecidableEq, Repr

/-- The register at an offset of the window (R40); 0x18 to 0x1F and offsets that are no multiple of 4 hold none. -/
def PortReg.at? (off : Nat) : Option PortReg :=
  match off with
  | 0x00 => some .cmd
  | 0x04 => some .arg0
  | 0x08 => some .arg1
  | 0x0C => some .res0
  | 0x10 => some .res1
  | 0x14 => some .status
  | _ => none

/-- The offset in the window of a bus address, if it lies in the window (R40, R41). The start address alone decides: an access that
starts below HOST_BASE is outside the window even where its bytes reach into it. DESIGN CHOICE, unsafe: R41 does not say what such an
access is (log entry 19). -/
def windowOffset (s : State) (addr : Nat) : Option Nat :=
  if s.par.hostBase ≤ addr ∧ addr < s.par.hostBase + Config.windowBytes then some (addr - s.par.hostBase) else none

/-- What a legal read of size `size` at an offset returns (R41): `none` is an illegal access. CMD is write-only. -/
def portRead (s : State) (off size : Nat) : Option (BitVec 32) :=
  if size ≠ 4 then none
  else match PortReg.at? off with
    | some .arg0 => some s.arg0
    | some .arg1 => some s.arg1
    | some .res0 => some s.res0
    | some .res1 => some s.res1
    | some .status => some (statusWord s)
    | some .cmd | none => none

/-- A host read (R41): an illegal one raises BAD_ACCESS and returns 0; one outside the window is no access to this core. -/
def hostRead (addr size : Nat) (s : State) : State :=
  match windowOffset s addr with
  | none => s
  | some off =>
    match portRead s off size with
    | some v => { s with busData := v }
    | none => { s.raiseFault .badAccess with busData := 0 }

/-- `Issue(w)` (R72): an illegal word raises its cause and nothing else; a legal one is executed, the hold being part of the
mutating commands' meanings. -/
def issue (w : Word) (s : State) : Host.Outcome State Fault Refusal :=
  match decode w with
  | .error c => .next (s.raiseFault c)
  | .ok i => exec i s

/-- A host write (R41). -/
def hostWrite (addr size : Nat) (data : BitVec 32) (s : State) : Host.Outcome State Fault Refusal :=
  match windowOffset s addr with
  | none => .next s
  | some off =>
    if size ≠ 4 then .next (s.raiseFault .badAccess)
    else match PortReg.at? off with
      | some .cmd => issue data s
      | some .arg0 => .next { s with arg0 := data }
      | some .arg1 => .next { s with arg1 := data }
      | some .res0 | some .res1 | some .status | none => .next (s.raiseFault .badAccess)

/-- One round of `waitidle` (R75): read STATUS, and go round again while bit 0 reads 1. `s` still has the loop at the head of its
host list, `rest` is what follows it. -/
def hostWait (rest : List HostAct) (s : State) : State :=
  let t := hostRead (s.par.hostBase + 0x14) 4 s
  if t.busData.getLsbD 0 then t else { t with hostIn := rest }

/-- One step of the host (R50, R176): a held command executes once BUSY = 0 and holds the host until then; else the next
action of the host's program. -/
def hostStep (s : State) : Host.Outcome State Fault Refusal :=
  match s.held with
  | some i => if s.busy then .next s else exec i { s with held := none }
  | none =>
    match s.hostIn with
    | [] => .next s
    | .read addr size :: rest => .next (hostRead addr size { s with hostIn := rest })
    | .write addr size data :: rest => hostWrite addr size data { s with hostIn := rest }
    | .waitidle :: rest => .next (hostWait rest s)

/-- Put a block on offer (R31, R150). -/
def State.offer (r : Rail) (samples : List Sample) (s : State) : State :=
  match r with
  | .i => { s with presentI := true, blkI := Memory.ofList samples }
  | .q => { s with presentQ := true, blkQ := Memory.ofList samples }

/-- Withdraw the offer of a rail: no block this period (R31, R150). -/
def State.withdraw (r : Rail) (s : State) : State :=
  match r with
  | .i => { s with presentI := false }
  | .q => { s with presentQ := false }

/-- The word a TICK pulse issues (R60): PROCESS. -/
def tickWord : Word := 0x40000000

/-- One step of the transport. A TICK issues PROCESS (R60). A change of what is offered is refused while a block process is in
progress (R154, U9), and so is an offer that is no block of L samples (R31). -/
def transportStep (s : State) : Host.Outcome State Fault Refusal :=
  match s.transIn with
  | [] => .next s
  | .tick :: rest => issue tickWord { s with transIn := rest }
  | .offer r samples :: rest =>
    if s.busy then .refused .transportBreach
    else if samples.length ≠ s.par.blockLen then .refused .notABlock
    else .next (State.offer r samples { s with transIn := rest })
  | .withdraw r :: rest =>
    if s.busy then .refused .transportBreach
    else .next (State.withdraw r { s with transIn := rest })

/-- Whose step comes next (R50, R175): the head of `turns`; when that list has run out, one legal order among many (log
entry 2): the pipeline while BUSY = 1, then the host, then the transport, then nobody. -/
def nextTurn (s : State) : Option Turn :=
  match s.turns with
  | t :: _ => some t
  | [] =>
    if s.busy then some .pipeline
    else if s.held.isSome || !s.hostIn.isEmpty then some .host
    else if !s.transIn.isEmpty then some .transport
    else none

/-- The platform's reset (R190, R191): the core's state takes its reset values, and the transport restarts with it and takes back its
blocks. U17: a transport that does not restart is refused where the reset abandons a block process. What becomes of the transport is
DEDUCED, and with BUSY = 0 a DESIGN CHOICE (log entry 11). -/
def platformReset (restarted : Option (List TransportAct)) (s : State) : Host.Outcome State Fault Refusal :=
  match restarted with
  | some acts => .next (s.resetCore.restartTransport acts)
  | none => if s.busy then .refused .transportNotRestarted else .next s.resetCore

/-- The step of one agent. -/
def agentStep (t : Turn) (s : State) : Host.Outcome State Fault Refusal :=
  match t with
  | .host => hostStep s
  | .transport => transportStep s
  | .pipeline => pipelineStep s
  | .reset restarted => platformReset restarted s

/-- One atomic step of the interleaving (R50): the agent whose turn it is moves, and the turn is used up. With nobody to move the
machine waits. -/
def machineStep (s : State) : Host.Outcome State Fault Refusal :=
  match nextTurn s with
  | some t => agentStep t { s with turns := s.turns.tail }
  | none => .next s

/-- The host's next step is a CMD write of the word `w` (R60): it comes first in the host's program, the host is not held, and
the next turn is the host's. -/
def placeCommand (w : Word) (s : State) : State :=
  { s with
    held := none
    hostIn := .write s.par.hostBase 4 w :: s.hostIn
    turns := .host :: s.turns }

end Sys2Proof.Machine
end

