-- ==== Sys2Proof/Machine/Step.lean ====
section
/-! DEFINITION. The machine's step and the placing of one command where the next step runs it (log entry 3). -/

namespace Sys2Proof.Machine

/-- One atomic step (R50). -/
def step (s : State) : Host.Outcome State Fault Refusal := machineStep s

/-- `s` with the `nbits`-bit instruction `w` as the command word the host writes to CMD in the very next step (R60). -/
def State.withFetchWord (s : State) (nbits w : Nat) : State := placeCommand (BitVec.ofNat 32 (w % 2 ^ nbits)) s

end Sys2Proof.Machine
end

