-- ==== Sys2Proof/Safety.lean ====
section
/-! DEFINITION. What claims about the machine are stated in: the invariant of a legal state, a safe state, the balance of the
transport trace, the command a step executes, and a command run on a list of operand pairs. -/

namespace Sys2Proof

/-- The commands whose rule writes RES0 or RES1 (R14). -/
def Instr.writesResult : Instr → Bool
  | .rdcfg | .rdpos | .rdmag _ | .rdph _ | .rddbg => true
  | .sat16 | .abs16 | .isqrt | .ssbu | .ssbl | .magf | .magf2 | .magx | .mags | .phase | .hstep | .dstep => true
  | .nop | .setmode _ | .setcfg _ | .clrf | .dpub | .process => false

/-- The commands that read ARG0 or ARG1 as 16-bit operands (R64). -/
def Instr.readsHalves : Instr → Bool
  | .abs16 | .magf | .magf2 | .magx | .mags | .phase | .hstep | .dstep => true
  | .nop | .setmode _ | .setcfg _ | .rdcfg | .rdpos | .rdmag _ | .rdph _ | .rddbg | .clrf => false
  | .sat16 | .isqrt | .ssbu | .ssbl | .dpub | .process => false

end Sys2Proof

namespace Sys2Proof.Machine

/-- Every listed index of an array is below `n`. -/
def Memory.below {w : Nat} (m : Memory w) (n : Nat) : Prop := ∀ c ∈ m, c.1 < n

/-- A sample value, -32768..32767 (R7). -/
def IsSample (x : Int) : Prop := -32768 ≤ x ∧ x ≤ 32767

/-- The invariant of a legal state: what the rules say of the state after every step. -/
structure Inv (s : State) : Prop where
  /-- The parameters are legal (R5). -/
  par_legal : s.par.Legal
  /-- RATIO is 1 to 15 (R20). -/
  ratio_pos : s.cfg.ratio ≠ 0
  /-- REM is below RATIO_MAX (R22, R128: it is below RATIO but for a SETCFG that lowers RATIO). -/
  rem_lt : s.rem.toNat < Config.ratioMax
  /-- WIDX is below L (R23). -/
  widx_lt : s.widx < s.par.blockLen
  /-- RPOS is below L (R128). -/
  rpos_lt : s.rpos < s.par.blockLen
  /-- SIDX is 0 to L (R28). -/
  sidx_le : s.sidx ≤ s.par.blockLen
  /-- Delay-line entries are sample values (R21). -/
  dlI_sample : ∀ j : Fin 31, IsSample (s.dlI[j]).toInt
  /-- Delay-line entries are sample values (R21). -/
  dlQ_sample : ∀ j : Fin 31, IsSample (s.dlQ[j]).toInt
  /-- The arrays have their canonical form and no element at L or above (R25, R26, R31). -/
  mag_wf : Memory.wf s.mag ∧ Memory.below s.mag s.par.blockLen
  ph_wf : Memory.wf s.ph ∧ Memory.below s.ph s.par.blockLen
  blkI_wf : Memory.wf s.blkI ∧ Memory.below s.blkI s.par.blockLen
  blkQ_wf : Memory.wf s.blkQ ∧ Memory.below s.blkQ s.par.blockLen
  /-- Every phase element is in -2*QT..2*QT (R26). -/
  ph_range : ∀ k, |(Memory.read s.ph k).toInt| ≤ 2 * (s.par.qt : Int)
  /-- FCAUSE is NONE exactly while FAULT is 0 (R171, R172). -/
  fault_cause : s.fault = false ↔ s.fcause = .none
  /-- The I block is held exactly during a block process (R156, R161), and it is the block on offer (R150, R154). -/
  acqI_busy : s.acqI = s.busy
  busy_presentI : s.busy = true → s.presentI = true
  /-- The Q block is held during a block process exactly when it was present (R156). -/
  acqQ_busy : s.acqQ = (s.busy && s.presentQ)
  /-- No block process runs in IDLE (R148). -/
  busy_mode : s.busy = true → s.mode ≠ .idle
  /-- A block process that needs the Q block holds it (R148, R149). -/
  busy_needsQ : s.busy = true → needsQ s.mode s.cfg.rails = true → s.presentQ = true
  /-- SIDX is 0 between block processes (R161). -/
  idle_sidx : s.busy = false → s.sidx = 0
  /-- Only a well-formed mutating command is ever held (R176). -/
  held_mutating : ∀ i, s.held = some i → i.mutating = true ∧ i.wf = true

/-- A state is safe when its step does not stop the machine with a fault. -/
def Safe (s : State) : Prop := ∀ r, step s ≠ .fault r

/-- Which rails the core holds after one more event: ACQ needs the rail free, REL and PUB need it held (R150 to R153). `none` is
a broken protocol. The pair is (I held, Q held). -/
def replayEvent : Option (Bool × Bool) → Event → Option (Bool × Bool)
  | some (false, q), .acq .i => some (true, q)
  | some (i, false), .acq .q => some (i, true)
  | some (true, q), .rel .i => some (false, q)
  | some (i, true), .rel .q => some (i, false)
  | some (true, q), .pubI => some (true, q)
  | _, _ => none

/-- Which rails the core holds after a whole trace, or `none` if the trace breaks the protocol. -/
def replay (es : List Event) : Option (Bool × Bool) := es.foldl replayEvent (some (false, false))

/-- The trace is balanced (R151, R162): it follows the protocol and leaves exactly the rails held that ACQ_I and ACQ_Q record. -/
def TraceBalanced (s : State) : Prop := replay s.events = some (s.acqI, s.acqQ)

/-- The command the next step executes, if it executes one (R60, R72, R176). -/
def commandOf (s : State) : Option Instr :=
  match nextTurn s with
  | some .host =>
    match s.held with
    | some i => if s.busy then none else some i
    | none =>
      match s.hostIn with
      | .write addr size w :: _ => if addr = s.par.hostBase ∧ size = 4 then (decode w).toOption else none
      | _ => none
  | some .transport => if s.transIn.head? = some .tick then some .process else none
  | _ => none

/-- The next step is the platform's reset (R190). -/
def resetsNext (s : State) : Bool :=
  match nextTurn s with
  | some (.reset _) => true
  | _ => false

/-- The step clears the pipeline: a reset, or a SETMODE that is not held (R30). -/
def clears (s : State) : Prop :=
  resetsNext s = true ∨ s.busy = false ∧ ∃ m, commandOf s = some (.setmode m)

/-- Run a command once for each operand pair (ARG0, ARG1) of a list, as a host does that writes both and issues it again. -/
def runOn (i : Instr) : List (Word × Word) → State → Host.Outcome State Fault Refusal
  | [], s => .next s
  | (a, b) :: rest, s =>
    match exec i { s with arg0 := a, arg1 := b } with
    | .next t => runOn i rest t
    | .fault r => .fault r
    | .refused r => .refused r

/-- The codes of the modes (R19). -/
def ModeCodes : Prop :=
  Mode.code .idle = 0 ∧ Mode.code .envelope = 1 ∧ Mode.code .ssbUsb = 2 ∧ Mode.code .ssbLsb = 3 ∧ Mode.code .report = 4

/-- The codes of the magnitude algorithms (R20). -/
def MagselCodes : Prop := MagAlg.code .fast = 0 ∧ MagAlg.code .fast2 = 1 ∧ MagAlg.code .exact = 2

/-- The codes of the causes (R171). -/
def CauseCodes : Prop :=
  Cause.code .none = 0 ∧ Cause.code .illegalOpcode = 1 ∧ Cause.code .reservedNonzero = 2 ∧ Cause.code .illegalValue = 3 ∧
    Cause.code .indexRange = 4 ∧ Cause.code .badAccess = 5 ∧ Cause.code .overrun = 6

/-- A word that is no command: it records its cause and has no other effect, in every state (R72, R172, R173). -/
def FaultsWith (w : Word) (c : Cause) : Prop :=
  decode w = .error c ∧
    ∀ s : State, issue w s = .next { s with fault := true, fcause := if s.fault = true then s.fcause else c }

/-- The words of a command without operand fields (R62, formats N and R): the opcode with every other bit 0, and each other word
of that opcode has a reserved bit set (R68) and faults. -/
def BareCommand (opc : BitVec 8) (i : Instr) : Prop :=
  decode (opc ++ 0#24) = .ok i ∧ ∀ opr : BitVec 24, opr ≠ 0 → FaultsWith (opc ++ opr) .reservedNonzero

end Sys2Proof.Machine
end

