-- ==== Sys2Proof/Certificates/Slice0/Obligations.lean ====
section
/-! DEFINITION. The statements for the provers, from the numbered rules of spec/. A turn at the head of `turns` says whose atomic step
comes next: the model's form of the interleaving of R50 (log entry 2). In each, `s` is any state, reached or not, unless
the statement names a premise. A conclusion of the form `exec i s = .next ⟨s with …⟩` names every field that changes, so it is the
command's result, its completion and its frame at once: every register, flag, array and list not named keeps its value. -/

open Sys2Proof Sys2Proof.Machine

/-! ## Encoding -/

/-- Decoding the word of a well-formed command gives the command back (R61, R62, R63, R67). -/
def Obligations.DecodeOfEncode : Prop := ∀ i : Instr, i.wf = true → decode (encode i) = .ok i

/-- A word that decodes is exactly the word of the command it decodes to, and that command is well formed: no bit of the word is
ignored (R62, R68). -/
def Obligations.EncodeOfDecode : Prop := ∀ (w : Word) (i : Instr), decode w = .ok i → i.wf = true ∧ encode i = w

/-- Decode's verdict on every word, taken as its opcode and operand fields (R61, R70, R71): the 23 opcodes, then the reserved bits
of the format, then the illegal field values, the first cause that applies; a word none of them applies to is a command. -/
def Obligations.DecodeVerdict : Prop :=
  ∀ (opc : BitVec 8) (opr : BitVec 24),
    let known := opc ∈ ([0x00, 0x01, 0x02, 0x03, 0x04, 0x05, 0x06, 0x07, 0x0F, 0x10, 0x11, 0x12, 0x14, 0x15, 0x18, 0x19, 0x1A, 0x1B,
      0x20, 0x28, 0x30, 0x31, 0x40] : List (BitVec 8))
    let reserved :=
      if opc = 0x01 then opr.extractLsb' 3 21 ≠ 0
      else if opc = 0x02 then opr.extractLsb' 12 12 ≠ 0 ∨ opr.extractLsb' 6 2 ≠ 0
      else if opc = 0x05 ∨ opc = 0x06 then opr.extractLsb' 16 8 ≠ 0
      else opr ≠ 0
    let badValue :=
      (opc = 0x01 ∧ 4 < (opr.extractLsb' 0 3).toNat) ∨
        (opc = 0x02 ∧ (opr.extractLsb' 0 2 = 3 ∨ opr.extractLsb' 8 4 = 0))
    (¬known → decode (opc ++ opr) = .error .illegalOpcode) ∧
      (known → reserved → decode (opc ++ opr) = .error .reservedNonzero) ∧
      (known → ¬reserved → badValue → decode (opc ++ opr) = .error .illegalValue) ∧
      (known → ¬reserved → ¬badValue → ∃ i, decode (opc ++ opr) = .ok i)

/-- The example words of R76 are the words of their commands, decode to them, and TICK issues the word of PROCESS. -/
def Obligations.EncodingExamples : Prop :=
  encode (.setmode .report) = 0x01000004 ∧ decode 0x01000004 = .ok (.setmode .report) ∧
    encode (.setcfg ⟨.fast2, false, false, false, false, 6⟩) = 0x02000601 ∧
    decode 0x02000601 = .ok (.setcfg ⟨.fast2, false, false, false, false, 6⟩) ∧
    encode (.rdmag 5) = 0x05000005 ∧ decode 0x05000005 = .ok (.rdmag 5) ∧
    encode .magf = 0x18000000 ∧ decode 0x18000000 = .ok .magf ∧
    encode .process = 0x40000000 ∧ decode 0x40000000 = .ok .process ∧ tickWord = 0x40000000

/-! ## A step runs the decoded command -/

/-- On the host's turn, with the host not held and its next bus access a whole-word write of CMD, the step is `exec` of the
command the word decodes to, in the state where that access and that turn are used up (R60, R72). -/
def Obligations.StepRunsHostCommand : Prop :=
  ∀ (s : State) (ts : List Turn) (rest : List HostAct) (w : Word) (i : Instr),
    s.turns = .host :: ts → s.held = none → s.hostIn = .write s.par.hostBase 4 w :: rest → decode w = .ok i →
      step s = exec i { s with hostIn := rest, turns := ts }

/-- On the transport's turn a TICK runs PROCESS (R60). -/
def Obligations.StepRunsTick : Prop :=
  ∀ (s : State) (ts : List Turn) (rest : List TransportAct),
    s.turns = .transport :: ts → s.transIn = .tick :: rest →
      step s = exec .process { s with transIn := rest, turns := ts }

/-- The hold of R176: a mutating command that decodes legally while BUSY = 1 waits with no effect; the host takes no further
step until BUSY = 0, when the command executes as its next step; no other agent's step but a reset ends the hold; the other
commands are never held. -/
def Obligations.HoldOfMutatingCommands : Prop :=
  (∀ (i : Instr) (s : State), i.mutating = true → i.wf = true → s.busy = true →
      exec i s = .next { s with held := some i }) ∧
    (∀ (i : Instr) (s t : State), i.mutating = false → exec i s = .next t → t.held = s.held) ∧
    (∀ (s : State) (ts : List Turn) (i : Instr), s.turns = .host :: ts → s.held = some i →
      (s.busy = true → step s = .next { s with turns := ts }) ∧
        (s.busy = false → step s = exec i { s with held := none, turns := ts })) ∧
    (∀ s t : State, nextTurn s = some .transport ∨ nextTurn s = some .pipeline → step s = .next t → t.held = s.held)

/-- A word that does not decode, written to CMD on the host's turn, records its cause and does nothing else, whether or not a
block process is in progress (R72, R173, R174). -/
def Obligations.IllegalWordOnlyRecordsCause : Prop :=
  ∀ (s : State) (ts : List Turn) (rest : List HostAct) (w : Word) (c : Cause),
    s.turns = .host :: ts → s.held = none → s.hostIn = .write s.par.hostBase 4 w :: rest → decode w = .error c →
      step s = .next { s with
        hostIn := rest
        turns := ts
        fault := true
        fcause := if s.fault = true then s.fcause else c }

/-- Port H (R41): the legal reads return their register and change nothing else, the legal writes of ARG0 and ARG1 store and
a write of CMD issues, every other access in the window raises BAD_ACCESS (a read returning 0) and changes no register, and an
access outside the window changes nothing of the core (what such a read returns is not the core's). That the start address alone
decides what is outside, also for an access that starts below the window and reaches into it, is the model's choice (log entry 19). -/
def Obligations.PortAccess : Prop :=
  ∀ (s : State) (ts : List Turn) (rest : List HostAct) (addr size : Nat) (v : Word),
    s.turns = .host :: ts → s.held = none →
      let base := s.par.hostBase
      let u := { s with hostIn := rest, turns := ts }
      let bad := { u with fault := true, fcause := if s.fault = true then s.fcause else .badAccess }
      let inside := base ≤ addr ∧ addr < base + 32
      (s.hostIn = .read addr size :: rest →
        (¬inside → ∃ d : Word, step s = .next { u with busData := d }) ∧
        (size = 4 → addr = base + 0x04 → step s = .next { u with busData := s.arg0 }) ∧
        (size = 4 → addr = base + 0x08 → step s = .next { u with busData := s.arg1 }) ∧
        (size = 4 → addr = base + 0x0C → step s = .next { u with busData := s.res0 }) ∧
        (size = 4 → addr = base + 0x10 → step s = .next { u with busData := s.res1 }) ∧
        (size = 4 → addr = base + 0x14 → step s = .next { u with busData := statusWord s }) ∧
        (inside → ¬(size = 4 ∧ addr ∈ [base + 0x04, base + 0x08, base + 0x0C, base + 0x10, base + 0x14]) →
          step s = .next { bad with busData := 0 })) ∧
      (s.hostIn = .write addr size v :: rest →
        (¬inside → step s = .next u) ∧
        (size = 4 → addr = base → step s = issue v u) ∧
        (size = 4 → addr = base + 0x04 → step s = .next { u with arg0 := v }) ∧
        (size = 4 → addr = base + 0x08 → step s = .next { u with arg1 := v }) ∧
        (inside → ¬(size = 4 ∧ addr ∈ [base, base + 0x04, base + 0x08]) → step s = .next bad))

/-- The fields of STATUS, bit by bit (R15), with the cause codes FCAUSE holds (R171) and the codes of MODE (R19). -/
def Obligations.StatusFields : Prop :=
  CauseCodes ∧ ModeCodes ∧ ∀ s : State,
    (statusWord s).getLsbD 0 = s.busy ∧ (statusWord s).getLsbD 1 = s.avail ∧ (statusWord s).getLsbD 2 = s.fault ∧
      (statusWord s).getLsbD 3 = false ∧ (statusWord s).extractLsb' 4 4 = s.fcause.code ∧
      (statusWord s).extractLsb' 8 3 = s.mode.code ∧ (statusWord s).extractLsb' 11 21 = 0

/-- Raising a fault sets FAULT and keeps the first cause (R172); FAULT and FCAUSE, once set, keep their values through every step
but a CLRF or a reset. -/
def Obligations.FaultIsSticky : Prop :=
  (∀ (c : Cause) (s : State),
      s.raiseFault c = { s with fault := true, fcause := if s.fault = true then s.fcause else c }) ∧
    (∀ s t : State, step s = .next t → s.fault = true →
      (t.fault = true ∧ t.fcause = s.fcause) ∨ commandOf s = some .clrf ∨ resetsNext s = true)

/-! ## Control commands -/

/-- NOP (R140): nothing happens. -/
def Obligations.NopCommand : Prop := BareCommand 0x00 .nop ∧ ∀ s : State, exec .nop s = .next s

/-- SETMODE (R141): its words with the mode codes (R19), and their faults; while BUSY = 0 the mode is set and the pipeline cleared, everything else kept;
while BUSY = 1 it is held. -/
def Obligations.SetmodeCommand : Prop :=
  ModeCodes ∧ (∀ opr : BitVec 24,
      (opr.extractLsb' 3 21 ≠ 0 → FaultsWith (0x01#8 ++ opr) .reservedNonzero) ∧
      (opr.extractLsb' 3 21 = 0 → 4 < (opr.extractLsb' 0 3).toNat → FaultsWith (0x01#8 ++ opr) .illegalValue) ∧
      (opr.extractLsb' 3 21 = 0 → (opr.extractLsb' 0 3).toNat ≤ 4 →
        ∃ m : Mode, m.code = opr.extractLsb' 0 3 ∧ decode (0x01#8 ++ opr) = .ok (.setmode m))) ∧
    ∀ (m : Mode) (s : State),
      (s.busy = false → exec (.setmode m) s = .next { s with
        mode := m
        dlI := Vector.replicate 31 0
        dlQ := Vector.replicate 31 0
        rem := 0
        widx := 0
        rpos := 0
        avail := false
        mag := []
        ph := [] }) ∧
      (s.busy = true → exec (.setmode m) s = .next { s with held := some (.setmode m) })

/-- SETCFG (R142): its words with the MAGSEL codes (R20), and their faults; while BUSY = 0 all six fields are stored at once and nothing else changes; while
BUSY = 1 it is held. -/
def Obligations.SetcfgCommand : Prop :=
  MagselCodes ∧ (∀ opr : BitVec 24,
      let reserved := opr.extractLsb' 12 12 ≠ 0 ∨ opr.extractLsb' 6 2 ≠ 0
      let badValue := opr.extractLsb' 0 2 = 3 ∨ opr.extractLsb' 8 4 = 0
      (reserved → FaultsWith (0x02#8 ++ opr) .reservedNonzero) ∧
      (¬reserved → badValue → FaultsWith (0x02#8 ++ opr) .illegalValue) ∧
      (¬reserved → ¬badValue → ∃ c : Cfg, decode (0x02#8 ++ opr) = .ok (.setcfg c) ∧
        c.magsel.code = opr.extractLsb' 0 2 ∧ c.hsel = opr.getLsbD 2 ∧ c.rails = opr.getLsbD 3 ∧
        c.envdec = opr.getLsbD 4 ∧ c.envzs = opr.getLsbD 5 ∧ c.ratio = opr.extractLsb' 8 4)) ∧
    ∀ (c : Cfg) (s : State), c.ratio ≠ 0 →
      (s.busy = false → exec (.setcfg c) s = .next { s with cfg := c }) ∧
      (s.busy = true → exec (.setcfg c) s = .next { s with held := some (.setcfg c) })

/-- RDCFG (R143): RES0 is CFG with the layout and codes of R20, RES1 is MODE with the codes of R19. -/
def Obligations.RdcfgCommand : Prop :=
  MagselCodes ∧ ModeCodes ∧ BareCommand 0x03 .rdcfg ∧
    ∀ s : State, ∃ r : Word,
      exec .rdcfg s = .next { s with res0 := r, res1 := s.mode.code.zeroExtend 32 } ∧
        r.extractLsb' 0 2 = s.cfg.magsel.code ∧ r.getLsbD 2 = s.cfg.hsel ∧ r.getLsbD 3 = s.cfg.rails ∧
        r.getLsbD 4 = s.cfg.envdec ∧ r.getLsbD 5 = s.cfg.envzs ∧ r.extractLsb' 6 2 = 0 ∧
        r.extractLsb' 8 4 = s.cfg.ratio ∧ r.extractLsb' 12 20 = 0

/-- RDDBG (R144): RES0 is REM, RES1 is WIDX. -/
def Obligations.RddbgCommand : Prop :=
  BareCommand 0x07 .rddbg ∧
    ∀ s : State, exec .rddbg s = .next { s with
      res0 := BitVec.ofNat 32 s.rem.toNat
      res1 := BitVec.ofNat 32 s.widx }

/-- CLRF (R146): FAULT and FCAUSE are cleared. -/
def Obligations.ClrfCommand : Prop :=
  BareCommand 0x0F .clrf ∧ ∀ s : State, exec .clrf s = .next { s with fault := false, fcause := .none }

/-! ## Fixed point -/

/-- SAT16 and ABS16 (R81, R83): the symmetric clip of ARG0 (R80), and the absolute value of its low half (R82). -/
def Obligations.ClipAndAbsoluteCommands : Prop :=
  BareCommand 0x10 .sat16 ∧ BareCommand 0x11 .abs16 ∧
    ∀ s : State,
      exec .sat16 s = .next { s with res0 := BitVec.ofInt 32 (max (-32767) (min 32767 s.arg0.toInt)) } ∧
      exec .abs16 s = .next { s with res0 := BitVec.ofNat 32 ((s.arg0.setWidth 16).toInt.natAbs) }

/-- ISQRT (R84, R85): the digit-by-digit root of ARG0 is its integer square root, for every ARG0. -/
def Obligations.IntegerSquareRoot : Prop :=
  BareCommand 0x12 .isqrt ∧
    ∀ s : State, exec .isqrt s = .next { s with res0 := BitVec.ofNat 32 (Nat.sqrt s.arg0.toNat) }

/-- SSBU and SSBL (R86, R87, R88): the exact sum or difference, clipped. -/
def Obligations.SidebandCombine : Prop :=
  BareCommand 0x14 .ssbu ∧ BareCommand 0x15 .ssbl ∧
    ∀ s : State,
      exec .ssbu s = .next { s with
        res0 := BitVec.ofInt 32 (max (-32767) (min 32767 (s.arg0.toInt + s.arg1.toInt))) } ∧
      exec .ssbl s = .next { s with
        res0 := BitVec.ofInt 32 (max (-32767) (min 32767 (s.arg0.toInt - s.arg1.toInt))) }

/-! ## Magnitude -/

/-- MAGF (R100, R101, R105). -/
def Obligations.MagfCommand : Prop :=
  BareCommand 0x18 .magf ∧
    ∀ s : State,
      let a := (s.arg0.setWidth 16).toInt.natAbs
      let b := (s.arg1.setWidth 16).toInt.natAbs
      exec .magf s = .next { s with
        res0 := BitVec.ofNat 32 (min (max a b * 31 / 2 ^ 5 + min a b * 3 / 2 ^ 3) 32767) }

/-- MAGF2 (R102, R106). -/
def Obligations.Magf2Command : Prop :=
  BareCommand 0x19 .magf2 ∧
    ∀ s : State,
      let a := (s.arg0.setWidth 16).toInt.natAbs
      let b := (s.arg1.setWidth 16).toInt.natAbs
      exec .magf2 s = .next { s with
        res0 := BitVec.ofNat 32
          (min (if min a b ≤ max a b / 2 ^ 2 then max a b else max a b * 7 / 2 ^ 3 + min a b / 2) 32767) }

/-- MAGX (R103, R107): the integer square root of I*I + Q*Q, clipped. -/
def Obligations.MagxCommand : Prop :=
  BareCommand 0x1A .magx ∧
    ∀ s : State,
      let i := (s.arg0.setWidth 16).toInt
      let q := (s.arg1.setWidth 16).toInt
      exec .magx s = .next { s with
        res0 := BitVec.ofNat 32 (min (Nat.sqrt (i * i + q * q).toNat) 32767) }

/-- MAGS (R104, R108): the algorithm CFG.MAGSEL selects. -/
def Obligations.MagsCommand : Prop :=
  BareCommand 0x1B .mags ∧
    ∀ s : State,
      (s.cfg.magsel = .fast → exec .mags s = exec .magf s) ∧
      (s.cfg.magsel = .fast2 → exec .mags s = exec .magf2 s) ∧
      (s.cfg.magsel = .exact → exec .mags s = exec .magx s) ∧
      ∃ r : Word, r.toNat ≤ 32767 ∧ exec .mags s = .next { s with res0 := r }

/-- The six properties of the estimators (R109). -/
def Obligations.MagnitudeProperties : Prop :=
  ∀ i q : Sample,
    let mx := max i.toInt.natAbs q.toInt.natAbs
    let mn := min i.toInt.natAbs q.toInt.natAbs
    (∀ a : MagAlg, magBy a i q ≤ 32767) ∧
      (∀ (a : MagAlg) (i' q' : Sample),
        (i'.toInt.natAbs = i.toInt.natAbs ∧ q'.toInt.natAbs = q.toInt.natAbs ∨
          i'.toInt.natAbs = q.toInt.natAbs ∧ q'.toInt.natAbs = i.toInt.natAbs) → magBy a i' q' = magBy a i q) ∧
      magFast i q ≤ 43 * mx / 2 ^ 5 ∧
      31 * mx / 2 ^ 5 ≤ magFast i q ∧
      (mn ≤ mx / 4 → min mx 32767 ≤ magFast2 i q) ∧
      (Real.sqrt ((i.toInt : ℝ) ^ 2 + (q.toInt : ℝ) ^ 2) < 32768 →
        |(magExact i q : ℝ) - Real.sqrt ((i.toInt : ℝ) ^ 2 + (q.toInt : ℝ) ^ 2)| < 1)

/-! ## Phase -/

/-- PHASE (R110, R111, R113): the angle of (Q, I) = (ARG0, ARG1), by the ratio of the smaller absolute value to the larger, the
polynomial, the complement when |Q| > |I|, the reflection for I < 0 and the negation for Q < 0. -/
def Obligations.PhaseCommand : Prop :=
  BareCommand 0x20 .phase ∧
    ∀ s : State,
      let q := (s.arg0.setWidth 16).toInt
      let i := (s.arg1.setWidth 16).toInt
      let f : Nat → Int := fun z =>
        ((s.par.qt * z * (2 ^ 29 + s.par.atanK * (32768 - z)) / 2 ^ 45 : Nat) : Int)
      let r : Int :=
        if i.natAbs < q.natAbs then s.par.qt - f (i.natAbs * 2 ^ 15 / q.natAbs)
        else if i = 0 then 0
        else f (q.natAbs * 2 ^ 15 / i.natAbs)
      let r' : Int := if i < 0 then 2 * s.par.qt - r else r
      exec .phase s = .next { s with res0 := BitVec.ofInt 32 (if q < 0 then -r' else r') }

/-- The five properties of the phase (R114), for every legal parameter value. -/
def Obligations.PhaseProperties : Prop :=
  ∀ (p : Params), p.Legal → ∀ q i : Sample,
    (0 < i.toInt →
      (0 < q.toInt → 0 ≤ phaseOf p q i ∧ phaseOf p q i ≤ p.qt) ∧
      (q.toInt < 0 → -(p.qt : Int) ≤ phaseOf p q i ∧ phaseOf p q i ≤ 0) ∧
      (q.toInt = 0 → phaseOf p q i = 0)) ∧
    (i.toInt = 0 →
      (0 < q.toInt → phaseOf p q i = p.qt) ∧ (q.toInt < 0 → phaseOf p q i = -(p.qt : Int)) ∧
      (q.toInt = 0 → phaseOf p q i = 0)) ∧
    (∀ q' : Sample, q.toInt ≠ 0 → q'.toInt = -q.toInt → phaseOf p q' i = -phaseOf p q i) ∧
    (∀ i' : Sample, 0 ≤ q.toInt → i.toInt ≠ 0 → i'.toInt = -i.toInt →
      phaseOf p q i' = 2 * (p.qt : Int) - phaseOf p q i) ∧
    (∀ s s' t t' : State, s'.par = s.par → s'.arg0 = s.arg0 → s'.arg1 = s.arg1 → exec .phase s = .next t →
      exec .phase s' = .next t' → t'.res0 = t.res0)

/-- The range of the phase (R112): -2*QT to 2*QT, so that it fits 16 bits; +2*QT for Q = 0 with I < 0, and -2*QT at its example. -/
def Obligations.PhaseRange : Prop :=
  ∀ (p : Params), p.Legal → ∀ q i : Sample,
    -2 * (p.qt : Int) ≤ phaseOf p q i ∧ phaseOf p q i ≤ 2 * p.qt ∧
      (BitVec.ofInt 16 (phaseOf p q i)).toInt = phaseOf p q i ∧
      (q.toInt = 0 → i.toInt < 0 → phaseOf p q i = 2 * p.qt) ∧
      (q.toInt < 0 → i.toInt < 0 → q.toInt.natAbs ≤ i.toInt.natAbs →
        octant p (q.toInt.natAbs * 32768 / i.toInt.natAbs) = 0 → phaseOf p q i = -2 * (p.qt : Int)) ∧
      phaseOf p (-1) (-32767) = -2 * (p.qt : Int)

/-! ## Hilbert filter -/

/-- HSTEP (R93, R94): the lines shift, RES0 is the in-phase sample of 15 steps earlier, RES1 the sum of the eight tap-pair
differences of the filtered line, shifted right by 15; in single rail the Q line is not touched. While BUSY = 1 it is held. -/
def Obligations.HstepCommand : Prop :=
  BareCommand 0x28 .hstep ∧
    ∀ s : State,
      (s.busy = false → ∃ di dq : DelayLine,
        (∀ j (h : j < 30), di[j] = s.dlI[j + 1]) ∧ (di[30]).toInt = (s.arg0.setWidth 16).toInt ∧
        (s.cfg.rails = false →
          (∀ j (h : j < 30), dq[j] = s.dlQ[j + 1]) ∧ (dq[30]).toInt = (s.arg1.setWidth 16).toInt) ∧
        (s.cfg.rails = true → dq = s.dlQ) ∧
        exec .hstep s = .next { s with
          dlI := di
          dlQ := dq
          res0 := di[15]
          res1 := BitVec.ofInt 32 ((∑ k : Fin 8,
            ((if s.cfg.hsel = true then s.par.coefU[k] else s.par.coefW[k] : Nat) : Int) *
              (((if s.cfg.rails = true then di else dq)[15 - (2 * k.val + 1)]).toInt -
                ((if s.cfg.rails = true then di else dq)[15 + (2 * k.val + 1)]).toInt)) / 2 ^ 15) }) ∧
      (s.busy = true → exec .hstep s = .next { s with held := some .hstep })

/-- The range of the filter output for every legal coefficient set and every line of samples (R92), and that the accumulator's
magnitude is below 2^34. -/
def Obligations.HilbertRange : Prop :=
  ∀ (p : Params), p.Legal → ∀ (hsel : Bool) (dl : DelayLine), (∀ j : Fin 31, IsSample (dl[j]).toInt) →
    -524265 ≤ hq p hsel dl ∧ hq p hsel dl ≤ 524264 ∧
      |∑ k : Fin 8, coef p hsel k * ((dl[15 - (2 * k.val + 1)]).toInt - (dl[15 + (2 * k.val + 1)]).toInt)| < 2 ^ 34

/-- The startup transient (R95): from cleared delay lines, any number of HSTEPs completes; I_d is 0 for the first 15, the older
taps hold zeros until 31 samples have come, after which every tap holds a sample shifted in since; no fault, flag or status bit marks the transient. -/
def Obligations.HilbertStartup : Prop :=
  ∀ (s : State) (xs : List (Word × Word)), s.busy = false → s.dlI = DelayLine.zero → s.dlQ = DelayLine.zero →
    ∃ t, runOn .hstep xs s = .next t ∧
      (0 < xs.length → xs.length ≤ 15 → t.res0 = 0) ∧
      (∀ (j : Nat) (hj : j < 31), j + xs.length < 31 → t.dlI[j] = 0 ∧ t.dlQ[j] = 0) ∧
      (31 ≤ xs.length → ∀ (j : Nat) (hj : j < 31) (x : Word × Word), xs[xs.length - 31 + j]? = some x →
        (t.dlI[j]).toInt = (x.1.setWidth 16).toInt ∧
        (s.cfg.rails = false → (t.dlQ[j]).toInt = (x.2.setWidth 16).toInt)) ∧
      t.fault = s.fault ∧ t.fcause = s.fcause ∧ statusWord t = statusWord s

/-- A constant input settles (R96, first property): once 31 HSTEPs with one sample pair have passed, from any filter state,
I_d is the in-phase sample and Q_h is 0. -/
def Obligations.ConstantInputSettles : Prop :=
  ∀ (s : State) (a b : Word) (n : Nat), s.busy = false → 31 ≤ n →
    ∃ t, runOn .hstep (List.replicate n (a, b)) s = .next t ∧
      t.res0.toInt = (a.setWidth 16).toInt ∧ t.res1 = 0

/-! ## Decimator and report buffer -/

/-- DSTEP (R121, R122): REM counts up, or the run is complete and one pair is written at WIDX, WIDX advances, and AVAIL is set when
WIDX is then in the second half; every other element of MAG and PH keeps its value. While BUSY = 1 it is held. -/
def Obligations.DstepCommand : Prop :=
  BareCommand 0x30 .dstep ∧
    ∀ s : State,
      (s.busy = false → s.rem.toNat + 1 < s.cfg.ratio.toNat →
        exec .dstep s = .next { s with rem := BitVec.ofNat 4 (s.rem.toNat + 1), res0 := 0 }) ∧
      (s.busy = false → s.cfg.ratio.toNat ≤ s.rem.toNat + 1 → Memory.wf s.mag → Memory.wf s.ph →
        ∃ (m : Memory 15) (f : Memory 16),
          exec .dstep s = .next { s with
            rem := 0
            mag := m
            ph := f
            widx := (s.widx + 1) % s.par.blockLen
            avail := s.avail || decide (s.par.blockLen / 2 ≤ (s.widx + 1) % s.par.blockLen)
            res0 := 1 } ∧
          (Memory.read m s.widx).toNat = magBy s.cfg.magsel (s.arg0.setWidth 16) (s.arg1.setWidth 16) ∧
          Memory.read f s.widx = BitVec.ofInt 16 (phaseOf s.par (s.arg1.setWidth 16) (s.arg0.setWidth 16)) ∧
          (∀ k, k ≠ s.widx → Memory.read m k = Memory.read s.mag k ∧ Memory.read f k = Memory.read s.ph k)) ∧
      (s.busy = true → exec .dstep s = .next { s with held := some .dstep })

/-- Any sequence of DSTEPs after a clear (R128, for the decimator steps a host makes by DSTEP): with N of them at a fixed RATIO, REM is N mod RATIO, the steps that
write are exactly those at the multiples of RATIO, WIDX is floor(N / RATIO) mod L, AVAIL is set exactly from L/2 writes on,
and the ranges of the indices, of REM, of MAG and of PH hold. -/
def Obligations.DecimatorStream : Prop :=
  ∀ (s : State) (xs : List (Word × Word)), s.clearPipeline = s → s.busy = false → s.cfg.ratio ≠ 0 → s.par.Legal →
    ∃ t, runOn .dstep xs s = .next t ∧
      t.rem.toNat = xs.length % s.cfg.ratio.toNat ∧
      (0 < xs.length → t.res0 = if s.cfg.ratio.toNat ∣ xs.length then 1 else 0) ∧
      t.widx = xs.length / s.cfg.ratio.toNat % s.par.blockLen ∧
      (t.avail = true ↔ s.par.blockLen / 2 ≤ xs.length / s.cfg.ratio.toNat) ∧
      t.widx < s.par.blockLen ∧ t.rpos < s.par.blockLen ∧ t.rem.toNat < s.cfg.ratio.toNat ∧
      ∀ k, (Memory.read t.mag k).toNat ≤ 32767 ∧ |(Memory.read t.ph k).toInt| ≤ 2 * (s.par.qt : Int)

/-- DPUB (R123): RPOS takes WIDX. While BUSY = 1 it is held. -/
def Obligations.DpubCommand : Prop :=
  BareCommand 0x31 .dpub ∧
    ∀ s : State,
      (s.busy = false → exec .dpub s = .next { s with rpos := s.widx }) ∧
      (s.busy = true → exec .dpub s = .next { s with held := some .dpub })

/-- RDPOS (R124): RES0 takes RPOS, also while a block process moves WIDX. -/
def Obligations.RdposCommand : Prop :=
  BareCommand 0x04 .rdpos ∧ ∀ s : State, exec .rdpos s = .next { s with res0 := BitVec.ofNat 32 s.rpos }

/-- RDMAG and RDPH (R125, R126): their words; an index below L reads one element, zero-extended or sign-extended; an index of L
or more raises INDEX_RANGE and reads nothing. -/
def Obligations.ReportReads : Prop :=
  (∀ opr : BitVec 24,
      (opr.extractLsb' 16 8 ≠ 0 →
        FaultsWith (0x05#8 ++ opr) .reservedNonzero ∧ FaultsWith (0x06#8 ++ opr) .reservedNonzero) ∧
      (opr.extractLsb' 16 8 = 0 →
        decode (0x05#8 ++ opr) = .ok (.rdmag (opr.extractLsb' 0 16)) ∧
        decode (0x06#8 ++ opr) = .ok (.rdph (opr.extractLsb' 0 16)))) ∧
    ∀ (s : State) (k : BitVec 16),
      (k.toNat < s.par.blockLen →
        exec (.rdmag k) s = .next { s with res0 := BitVec.ofNat 32 (Memory.read s.mag k.toNat).toNat } ∧
        exec (.rdph k) s = .next { s with res0 := BitVec.ofInt 32 (Memory.read s.ph k.toNat).toInt }) ∧
      (s.par.blockLen ≤ k.toNat →
        exec (.rdmag k) s = .next { s with
          fault := true
          fcause := if s.fault = true then s.fcause else .indexRange } ∧
        exec (.rdph k) s = .next { s with
          fault := true
          fcause := if s.fault = true then s.fcause else .indexRange })

/-! ## Block process -/

/-- PROCESS (R147, R148, R149, R155, R156): OVERRUN while BUSY = 1; else the drain when the mode is IDLE or a block the mode needs
is missing, recording events only; else the prologue. -/
def Obligations.ProcessCommand : Prop :=
  BareCommand 0x40 .process ∧
    ∀ s : State,
      let ready := s.mode ≠ .idle ∧ s.presentI = true ∧
        (s.presentQ = true ∨ (s.mode = .ssbUsb ∨ s.mode = .ssbLsb) ∧ s.cfg.rails = true)
      (s.busy = true → exec .process s = .next { s with
        fault := true
        fcause := if s.fault = true then s.fcause else .overrun }) ∧
      (s.busy = false → ¬ready → exec .process s = .next { s with
        events := s.events ++ (if s.presentI = true then [.acq .i, .rel .i] else []) ++
          (if s.presentQ = true then [.acq .q, .rel .q] else []) }) ∧
      (s.busy = false → ready → exec .process s = .next { s with
        busy := true
        sidx := 0
        acqI := true
        acqQ := s.acqQ || s.presentQ
        events := s.events ++ [.acq .i] ++ (if s.presentQ = true then [.acq .q] else []) })

/-- The ENVELOPE sample step (R157): what it stores at sample n of the I block, what REM becomes, and that no other sample and
no other state but SIDX changes. -/
def Obligations.EnvelopeSampleStep : Prop :=
  ∀ (s : State) (ts : List Turn), s.turns = .pipeline :: ts → s.busy = true → s.mode = .envelope → s.acqI = true →
    s.acqQ = true → s.sidx < s.par.blockLen → Memory.wf s.blkI →
    let i := Memory.read s.blkI s.sidx
    let q := Memory.read s.blkQ s.sidx
    let full := s.cfg.ratio.toNat ≤ s.rem.toNat + 1
    ∃ (r : BitVec 4) (b : Memory 16),
      step s = .next { s with turns := ts, sidx := s.sidx + 1, rem := r, blkI := b } ∧
        (s.cfg.envdec = false → r = s.rem) ∧
        (s.cfg.envdec = true → full → r = 0) ∧
        (s.cfg.envdec = true → ¬full → r.toNat = s.rem.toNat + 1) ∧
        (s.cfg.envdec = false ∨ full → (Memory.read b s.sidx).toNat = magBy s.cfg.magsel i q) ∧
        (s.cfg.envdec = true → ¬full → s.cfg.envzs = true → Memory.read b s.sidx = 0) ∧
        (s.cfg.envdec = true → ¬full → s.cfg.envzs = false → Memory.read b s.sidx = i) ∧
        (∀ n, n ≠ s.sidx → Memory.read b n = Memory.read s.blkI n)

/-- The SSB sample step (R158): the Hilbert step on the sample pair, and the clipped sum (SSB_USB) or difference (SSB_LSB) stored
in place at sample n of the I block; in single rail the Q block is not read and the Q line not touched. -/
def Obligations.SsbSampleStep : Prop :=
  ∀ (s : State) (ts : List Turn), s.turns = .pipeline :: ts → s.busy = true → s.mode = .ssbUsb ∨ s.mode = .ssbLsb →
    s.acqI = true → (s.cfg.rails = false → s.acqQ = true) → s.sidx < s.par.blockLen → Memory.wf s.blkI →
    ∃ (di dq : DelayLine) (b : Memory 16),
      step s = .next { s with turns := ts, sidx := s.sidx + 1, dlI := di, dlQ := dq, blkI := b } ∧
        (∀ j (h : j < 30), di[j] = s.dlI[j + 1]) ∧ (di[30]).toInt = (Memory.read s.blkI s.sidx).toInt ∧
        (s.cfg.rails = false →
          (∀ j (h : j < 30), dq[j] = s.dlQ[j + 1]) ∧ (dq[30]).toInt = (Memory.read s.blkQ s.sidx).toInt) ∧
        (s.cfg.rails = true → dq = s.dlQ) ∧
        (let h := hq s.par s.cfg.hsel (if s.cfg.rails = true then di else dq)
         (Memory.read b s.sidx).toInt =
           max (-32767) (min 32767 (if s.mode = .ssbUsb then (di[15]).toInt + h else (di[15]).toInt - h))) ∧
        (∀ n, n ≠ s.sidx → Memory.read b n = Memory.read s.blkI n)

/-- The REPORT sample step (R159): the decimator step on the sample pair; the blocks are only read and RPOS does not move. -/
def Obligations.ReportSampleStep : Prop :=
  ∀ (s : State) (ts : List Turn), s.turns = .pipeline :: ts → s.busy = true → s.mode = .report → s.acqI = true →
    s.acqQ = true → s.sidx < s.par.blockLen → Memory.wf s.mag → Memory.wf s.ph →
    (s.rem.toNat + 1 < s.cfg.ratio.toNat →
      step s = .next { s with turns := ts, sidx := s.sidx + 1, rem := BitVec.ofNat 4 (s.rem.toNat + 1) }) ∧
    (s.cfg.ratio.toNat ≤ s.rem.toNat + 1 →
      ∃ (m : Memory 15) (f : Memory 16),
        step s = .next { s with
          turns := ts
          sidx := s.sidx + 1
          rem := 0
          mag := m
          ph := f
          widx := (s.widx + 1) % s.par.blockLen
          avail := s.avail || decide (s.par.blockLen / 2 ≤ (s.widx + 1) % s.par.blockLen) } ∧
        (Memory.read m s.widx).toNat =
          magBy s.cfg.magsel (Memory.read s.blkI s.sidx) (Memory.read s.blkQ s.sidx) ∧
        Memory.read f s.widx =
          BitVec.ofInt 16 (phaseOf s.par (Memory.read s.blkQ s.sidx) (Memory.read s.blkI s.sidx)) ∧
        (∀ k, k ≠ s.widx → Memory.read m k = Memory.read s.mag k ∧ Memory.read f k = Memory.read s.ph k))

/-- The epilogue (R161): after the last sample step, RPOS takes WIDX in REPORT, and the other modes publish the I block; then the
held blocks are released, BUSY and SIDX become 0. -/
def Obligations.EpilogueStep : Prop :=
  ∀ (s : State) (ts : List Turn), s.turns = .pipeline :: ts → s.busy = true → s.sidx = s.par.blockLen →
    step s = .next { s with
      turns := ts
      rpos := if s.mode = .report then s.widx else s.rpos
      published := if s.mode = .report then s.published else s.published ++ [s.blkI]
      events := s.events ++ (if s.mode = .report then [] else [.pubI]) ++ [.rel .i] ++
        (if s.acqQ = true then [.rel .q] else [])
      acqI := false
      acqQ := false
      busy := false
      sidx := 0 }

/-! ## Reset -/

/-- The reset values (R33), and the reset step (R190, R191), from any state: every piece of core state takes its reset value in
one step, a held command is dropped, no event is recorded and the parameters stay. What the reset does to the transport is the
model's choice (log entry 11, DEDUCED and DESIGN CHOICE): with a transport that restarts, also where BUSY = 0, PRESENT_I and PRESENT_Q
become 0 and its list of actions is what it does after the restart; with one that does not restart, the step completes where BUSY = 0. -/
def Obligations.ResetValues : Prop :=
  (let r := State.reset
   r.mode = .idle ∧ r.cfg.word = 0x601 ∧ (∀ j : Fin 31, r.dlI[j] = 0 ∧ r.dlQ[j] = 0) ∧ r.rem = 0 ∧ r.widx = 0 ∧ r.rpos = 0 ∧
     r.avail = false ∧ (∀ k, Memory.read r.mag k = 0 ∧ Memory.read r.ph k = 0) ∧ r.arg0 = 0 ∧ r.arg1 = 0 ∧ r.res0 = 0 ∧ r.res1 = 0 ∧
     r.busy = false ∧ r.fault = false ∧ r.fcause = .none ∧ r.sidx = 0 ∧ r.acqI = false ∧ r.acqQ = false) ∧
  ∀ (s : State) (ts : List Turn) (restarted : Option (List TransportAct)), s.turns = .reset restarted :: ts →
    (restarted = none → s.busy = false) →
    ∃ t, step s = .next t ∧
      (∀ acts, restarted = some acts → t.presentI = false ∧ t.presentQ = false ∧ t.transIn = acts) ∧
      t.mode = .idle ∧ t.cfg.word = 0x601 ∧ (∀ j : Fin 31, t.dlI[j] = 0 ∧ t.dlQ[j] = 0) ∧ t.rem = 0 ∧ t.widx = 0 ∧
      t.rpos = 0 ∧ t.avail = false ∧ (∀ k, Memory.read t.mag k = 0 ∧ Memory.read t.ph k = 0) ∧ t.arg0 = 0 ∧ t.arg1 = 0 ∧
      t.res0 = 0 ∧ t.res1 = 0 ∧ t.busy = false ∧ t.fault = false ∧ t.fcause = .none ∧ t.sidx = 0 ∧ t.acqI = false ∧
      t.acqQ = false ∧ t.held = none ∧ t.events = s.events ∧ t.par = s.par

/-! ## Whole-machine rules -/

/-- Only SETMODE and reset move MODE (R19, R145), and only SETCFG and reset write CFG (R20): a step that changes one is a reset, which
leaves IDLE and the configuration 0x601, or executes that command while BUSY = 0, which leaves what it names. -/
def Obligations.ModeMovesBySetmodeOrReset : Prop :=
  ∀ s t : State, step s = .next t →
    (t.mode ≠ s.mode →
      (resetsNext s = true ∧ t.mode = .idle) ∨
        (s.busy = false ∧ ∃ m, commandOf s = some (.setmode m) ∧ t.mode = m)) ∧
    (t.cfg ≠ s.cfg →
      (resetsNext s = true ∧ t.cfg.word = 0x601) ∨
        (s.busy = false ∧ ∃ c, commandOf s = some (.setcfg c) ∧ t.cfg = c))

/-- Every step of one block process sees the same MODE and CFG, and between the pipeline's own steps nothing but a reset changes the
filter, decimation and report state (R148, R176). That the blocks and the PRESENT flags stay rests on the transport's duty R154, a
breach of which the model refuses (U9, log entry 5). -/
def Obligations.BlockProcessIsUndisturbed : Prop :=
  ∀ s t : State, step s = .next t → s.busy = true → resetsNext s = false →
    t.mode = s.mode ∧ t.cfg = s.cfg ∧
      (nextTurn s ≠ some .pipeline →
        t.dlI = s.dlI ∧ t.dlQ = s.dlQ ∧ t.rem = s.rem ∧ t.widx = s.widx ∧ t.rpos = s.rpos ∧ t.avail = s.avail ∧
          t.mag = s.mag ∧ t.ph = s.ph ∧ t.sidx = s.sidx ∧ t.busy = true ∧ t.acqI = s.acqI ∧ t.acqQ = s.acqQ ∧
          t.blkI = s.blkI ∧ t.blkQ = s.blkQ ∧ t.presentI = s.presentI ∧ t.presentQ = s.presentQ ∧ t.events = s.events)

/-- The availability latch (R17): once 1, it stays 1 through every step but one that clears the pipeline (a SETMODE that is not
held, or a reset), which leaves it 0; only a decimator step, by DSTEP or of a REPORT block process, sets it. -/
def Obligations.AvailLatches : Prop :=
  ∀ s t : State, step s = .next t →
    (s.avail = true → t.avail = true ∨ clears s) ∧
    (clears s → t.avail = false) ∧
    (s.avail = false → t.avail = true →
      commandOf s = some .dstep ∨ (nextTurn s = some .pipeline ∧ s.busy = true ∧ s.mode = .report))

/-- BUSY (R16): a step that sets it executes PROCESS, and a step that clears it is the epilogue or a reset. -/
def Obligations.BusyMovesByProcessAndEpilogue : Prop :=
  ∀ s t : State, step s = .next t →
    (s.busy = false → t.busy = true → commandOf s = some .process ∧ t.sidx = 0 ∧ t.acqI = true) ∧
    (s.busy = true → t.busy = false →
      (nextTurn s = some .pipeline ∧ s.par.blockLen ≤ s.sidx ∧ t = epilogue { s with turns := s.turns.tail }) ∨
        resetsNext s = true)

/-- RPOS (R24): only the epilogue of a REPORT block process and DPUB write it, each storing WIDX, apart from a clear. -/
def Obligations.PositionWrittenAtPublish : Prop :=
  ∀ s t : State, step s = .next t → t.rpos ≠ s.rpos →
    (clears s ∧ t.rpos = 0) ∨
      (t.rpos = s.widx ∧
        (commandOf s = some .dpub ∨
          (nextTurn s = some .pipeline ∧ s.busy = true ∧ s.mode = .report ∧ t.busy = false)))

/-- ARG0 and ARG1 (R13): no command and no block process writes them; a step that changes one is a reset or the host's bus write at
its offset, of the value it then holds. -/
def Obligations.ArgumentsWrittenByHost : Prop :=
  ∀ s t : State, step s = .next t →
    (t.arg0 ≠ s.arg0 → resetsNext s = true ∨
      (nextTurn s = some .host ∧ s.hostIn.head? = some (.write (s.par.hostBase + 4) 4 t.arg0))) ∧
    (t.arg1 ≠ s.arg1 → resetsNext s = true ∨
      (nextTurn s = some .host ∧ s.hostIn.head? = some (.write (s.par.hostBase + 8) 4 t.arg1)))

/-- RES0 and RES1 (R14): a step that changes one is a reset or executes one of the seventeen commands whose rule says so. -/
def Obligations.ResultsWrittenByListedCommands : Prop :=
  ∀ s t : State, step s = .next t → t.res0 ≠ s.res0 ∨ t.res1 ≠ s.res1 →
    resetsNext s = true ∨ ∃ i, commandOf s = some i ∧ i.writesResult = true

/-- The parameters, the coefficient sets among them, are written by no step (R27). -/
def Obligations.ParametersAreConstant : Prop := ∀ s t : State, step s = .next t → t.par = s.par

/-- What each class of command may write (R73): a command that is neither mutating nor PROCESS writes RES0, RES1, FAULT and FCAUSE
only; a mutating one that is not held writes no argument, fault or block state. -/
def Obligations.CommandClassFrames : Prop :=
  ∀ (i : Instr) (s t : State), exec i s = .next t →
    (i.mutating = false → i ≠ .process →
      t = { s with res0 := t.res0, res1 := t.res1, fault := t.fault, fcause := t.fcause }) ∧
    (i.mutating = true → i.wf = true → s.busy = false →
      t = { s with
        mode := t.mode
        cfg := t.cfg
        dlI := t.dlI
        dlQ := t.dlQ
        rem := t.rem
        widx := t.widx
        rpos := t.rpos
        avail := t.avail
        mag := t.mag
        ph := t.ph
        res0 := t.res0
        res1 := t.res1 })

/-- The upper halves of ARG0 and ARG1 have no effect on a command that reads 16-bit operands (R64). -/
def Obligations.UpperHalvesIgnored : Prop :=
  ∀ (i : Instr) (s t : State) (a b a' b' : Word), i.readsHalves = true → a'.setWidth 16 = a.setWidth 16 →
    b'.setWidth 16 = b.setWidth 16 → exec i { s with arg0 := a, arg1 := b } = .next t →
      exec i { s with arg0 := a', arg1 := b' } = .next { t with arg0 := a', arg1 := b' }

/-! ## Headline results -/

/-- Every step keeps the invariant of a legal state. -/
def Obligations.InvariantKept : Prop := ∀ s t : State, Inv s → step s = .next t → Inv t

/-- The reset state meets the invariant, and its trace is balanced. -/
def Obligations.InvariantAtReset : Prop := Inv State.reset ∧ TraceBalanced State.reset

/-- A legal state is safe (R44): its step never makes an element access that is not legal, nor stops the machine with another fault
(log entry 12 names the faults). -/
def Obligations.LegalStatesAreSafe : Prop := ∀ s : State, Inv s → Safe s

/-- When a step is refused, and with which reason: only where the transport changes its offer while BUSY = 1 (R154, U9), offers
something that is no block of L samples (R31), or does not restart with a reset of a block process (R191, U17). The refusals are the
model's treatment of what lies outside the core's contract (log entries 5 and 11). -/
def Obligations.RefusalsAreTheTransports : Prop :=
  ∀ s : State,
    (step s = .refused .transportBreach ↔
      nextTurn s = some .transport ∧ s.busy = true ∧ ∃ r, (∃ xs, s.transIn.head? = some (.offer r xs)) ∨
        s.transIn.head? = some (.withdraw r)) ∧
    (step s = .refused .notABlock ↔
      nextTurn s = some .transport ∧ s.busy = false ∧
        ∃ r xs, s.transIn.head? = some (.offer r xs) ∧ xs.length ≠ s.par.blockLen) ∧
    (step s = .refused .transportNotRestarted ↔ nextTurn s = some (.reset none) ∧ s.busy = true) ∧
    ∀ reason, step s = .refused reason → reason = .transportBreach ∨ reason = .notABlock ∨ reason = .transportNotRestarted

/-- Every acquired block is released exactly once and no other is released (R151, R162): from a legal state with a balanced trace,
every step but a reset, which abandons a block process without an event (R191), keeps the trace balanced. -/
def Obligations.TraceStaysBalanced : Prop :=
  ∀ s t : State, Inv s → TraceBalanced s → resetsNext s = false → step s = .next t → TraceBalanced t

/-- A block process always runs to its epilogue (R145, R148, R161, R162): in every interleaving without a reset, with a transport that
keeps its duty R154 to change no offer meanwhile, the block process ends with the turn of the pipeline that follows its L - SIDX
remaining sample steps, whatever the host and the transport do between them. It then has BUSY 0, the blocks released, the I block
published in the modes that write it, RPOS published in REPORT, the mode and the configuration as they were; and the registers and the
fault as they were if nobody else moved. -/
def Obligations.BlockProcessRunsToEnd : Prop :=
  ∀ (s : State) (us ts : List Turn), Inv s → s.busy = true → s.turns = us ++ .pipeline :: ts →
    (∀ r, Turn.reset r ∉ us) → us.count .pipeline = s.par.blockLen - s.sidx →
    (∀ a ∈ s.transIn.take (us.count .transport), a = .tick) →
    ∃ t : State, Sys2Proof.core.run (us.length + 1) s = .next t ∧
      t.busy = false ∧ t.sidx = 0 ∧ t.acqI = false ∧ t.acqQ = false ∧ t.turns = ts ∧
      t.events = s.events ++ (if s.mode = .report then [] else [.pubI]) ++ [.rel .i] ++
        (if s.acqQ = true then [.rel .q] else []) ∧
      t.published = (if s.mode = .report then s.published else s.published ++ [t.blkI]) ∧
      (s.mode = .report → t.rpos = t.widx ∧ t.blkI = s.blkI) ∧ (s.mode ≠ .report → t.rpos = s.rpos ∧ t.widx = s.widx) ∧
      t.blkQ = s.blkQ ∧ t.mode = s.mode ∧ t.cfg = s.cfg ∧
      ((∀ u ∈ us, u = .pipeline) →
        t.arg0 = s.arg0 ∧ t.arg1 = s.arg1 ∧ t.res0 = s.res0 ∧ t.res1 = s.res1 ∧ t.fault = s.fault ∧ t.fcause = s.fcause)

/-- A whole REPORT block (R129, R159, R161): from SIDX 0 with REM below RATIO, L sample steps and the epilogue make
floor((REM + L) / RATIO) writes. Write j holds the magnitude and phase of the sample that completes its run of RATIO samples, at the
index j past the old WIDX modulo L, and no other element changes. WIDX advances by the number of writes modulo L, RPOS is the new WIDX,
REM is what is left over, AVAIL is set if a write leaves WIDX in the second half, and the blocks are only read. With RATIO = 1 the
whole buffer is overwritten and WIDX returns to its value from the start of the block. -/
def Obligations.ReportBlockWrites : Prop :=
  ∀ (s : State) (ts : List Turn), Inv s → s.busy = true → s.mode = .report → s.sidx = 0 →
    s.rem.toNat < s.cfg.ratio.toNat → s.turns = List.replicate (s.par.blockLen + 1) Turn.pipeline ++ ts →
    let len := s.par.blockLen
    let ratio := s.cfg.ratio.toNat
    let writes := (s.rem.toNat + len) / ratio
    ∃ t : State, Sys2Proof.core.run (len + 1) s = .next t ∧
      t.busy = false ∧ t.rem.toNat = (s.rem.toNat + len) % ratio ∧ t.widx = (s.widx + writes) % len ∧ t.rpos = t.widx ∧
      t.blkI = s.blkI ∧ t.blkQ = s.blkQ ∧
      (∀ j, j < writes →
        let n := (j + 1) * ratio - s.rem.toNat - 1
        (Memory.read t.mag ((s.widx + j) % len)).toNat =
            magBy s.cfg.magsel (Memory.read s.blkI n) (Memory.read s.blkQ n) ∧
          Memory.read t.ph ((s.widx + j) % len) =
            BitVec.ofInt 16 (phaseOf s.par (Memory.read s.blkQ n) (Memory.read s.blkI n))) ∧
      (∀ k, (∀ j, j < writes → k ≠ (s.widx + j) % len) →
        Memory.read t.mag k = Memory.read s.mag k ∧ Memory.read t.ph k = Memory.read s.ph k) ∧
      (t.avail = true ↔ s.avail = true ∨ ∃ j, j < writes ∧ len / 2 ≤ (s.widx + j + 1) % len) ∧
      (ratio = 1 → writes = len ∧ t.widx = s.widx)
end

