-- ==== Sys2Proof/Laws/Arith.lean ====
section
/-! SUPPORT. Ranges and shapes of the datapath's values: samples, clips, the octant polynomial, the delay-line shift. -/

namespace Sys2Proof.Machine

theorem sample_isSample (x : Sample) : IsSample x.toInt := by
  have h := BitVec.toInt_lt (x := x)
  have h' := BitVec.le_toInt x
  constructor <;> omega

theorem absSample_le (x : Sample) : absSample x ≤ 32768 := by
  have h := sample_isSample x
  simp only [IsSample, absSample] at *
  omega

theorem absSample_int (x : Sample) : (absSample x : Int) = |x.toInt| := by simp [absSample]

theorem clamp_eq (v lo hi : Int) (h : lo ≤ hi) : clamp v lo hi = max lo (min hi v) := by
  simp only [clamp]
  split_ifs <;> omega

theorem sat16_range (v : Int) : -32767 ≤ sat16 v ∧ sat16 v ≤ 32767 := by
  simp only [sat16, clamp]
  split_ifs <;> omega

theorem combine_range (d h : Int) (sb : Sideband) : -32767 ≤ combine d h sb ∧ combine d h sb ≤ 32767 := by
  cases sb <;> exact sat16_range _

theorem clip15_le (v : Nat) : clip15 v ≤ 32767 := Nat.min_le_right _ _

theorem magBy_le (a : MagAlg) (i q : Sample) : magBy a i q ≤ 32767 := by
  cases a
  · exact clip15_le _
  · simp only [magBy, magFast2]
    split <;> exact clip15_le _
  · exact clip15_le _

/-- The octant polynomial stays below half a quarter turn (R110). -/
theorem octant_le {p : Params} (h : p.Legal) {z : Nat} (hz : z ≤ 32768) : octant p z ≤ p.qt / 2 := by
  have hk := h.atanK_le
  obtain ⟨y, hy⟩ := Nat.exists_eq_add_of_le hz
  have hy' : 32768 - z = y := by omega
  have key : z * (2 ^ 29 + p.atanK * y) ≤ 2 ^ 44 := by
    have h1 : z * p.atanK ≤ 2 ^ 29 := by nlinarith
    have h2 : z * p.atanK * y ≤ 2 ^ 29 * y := Nat.mul_le_mul_right y h1
    have h3 : z * (2 ^ 29 + p.atanK * y) = z * 2 ^ 29 + z * p.atanK * y := by ring
    omega
  have h4 : p.qt * z * (2 ^ 29 + p.atanK * y) ≤ p.qt * 2 ^ 44 := by
    rw [mul_assoc]
    exact Nat.mul_le_mul_left _ key
  rw [octant, hy']
  omega

/-- A ratio of a smaller to a larger absolute value is a Q15 ratio (R111). -/
theorem ratio_le {a b : Nat} (h : a ≤ b) : a * 32768 / b ≤ 32768 := by
  rcases Nat.eq_zero_or_pos b with rfl | hb
  · simp
  · exact Nat.div_le_of_le_mul (by nlinarith)

/-- The first-quadrant angle lies in the first quadrant. -/
theorem quadrantAngle_range {p : Params} (h : p.Legal) (aq ai : Nat) :
    0 ≤ quadrantAngle p aq ai ∧ quadrantAngle p aq ai ≤ p.qt := by
  simp only [quadrantAngle]
  split_ifs with h1 h2
  · have := octant_le h (ratio_le h1.le)
    omega
  · omega
  · have := octant_le h (ratio_le (not_lt.mp h1))
    omega

@[simp] theorem shiftIn_get_last (dl : DelayLine) (x : Sample) : (shiftIn dl x)[30] = x.signExtend 32 := by
  simp [shiftIn]

theorem shiftIn_get (dl : DelayLine) (x : Sample) (j : Nat) (hj : j < 30) : (shiftIn dl x)[j] = dl[j + 1] := by
  simp [shiftIn, hj]

theorem signExtend_toInt (x : Sample) : (x.signExtend 32).toInt = x.toInt :=
  BitVec.toInt_signExtend_of_le (by omega)

/-- A shifted line holds sample values if the line did. -/
theorem shiftIn_isSample {dl : DelayLine} (h : ∀ j : Fin 31, IsSample (dl[j]).toInt) (x : Sample) (j : Fin 31) :
    IsSample ((shiftIn dl x)[j]).toInt := by
  obtain ⟨j, hj⟩ := j
  rcases Nat.lt_succ_iff_lt_or_eq.mp hj with hj' | rfl
  · have := h ⟨j + 1, by omega⟩
    simp only [Fin.getElem_fin] at *
    rw [shiftIn_get dl x j hj']
    exact this
  · simp only [Fin.getElem_fin, shiftIn_get_last, signExtend_toInt]
    exact sample_isSample x

/-- No decoder verdict is the cause NONE. -/
theorem decode_error_ne_none {w : Word} {c : Cause} (h : decode w = .error c) : c ≠ .none := by
  rintro rfl
  revert h
  simp only [decode, decodeBare, decodeMode, decodeConfig, decodeIndex]
  repeat' split
  all_goals simp

theorem reference_legal : Config.reference.Legal where
  blockLen_pow := ⟨7, by decide, by decide, rfl⟩
  coefW_le := by decide
  coefU_le := by decide
  qt_pos := by decide
  qt_le := by decide
  atanK_le := by decide
  hostBase_aligned := by decide

/-- A legal block length is even and at least 2. -/
theorem legal_two_le {p : Params} (h : p.Legal) : 2 ≤ p.blockLen := by
  obtain ⟨e, h1, -, he⟩ := h.blockLen_pow
  calc 2 = 2 ^ 1 := rfl
    _ ≤ 2 ^ e := Nat.pow_le_pow_right (by omega) h1
    _ = p.blockLen := he.symm

theorem legal_le_32768 {p : Params} (h : p.Legal) : p.blockLen ≤ 32768 := by
  obtain ⟨e, -, h2, he⟩ := h.blockLen_pow
  calc p.blockLen = 2 ^ e := he
    _ ≤ 2 ^ 15 := Nat.pow_le_pow_right (by omega) h2
    _ = 32768 := rfl

end Sys2Proof.Machine
end

