-- ==== Sys2Proof/Laws/Memory.lean ====
section
/-! SUPPORT. The laws of the array operations: read after write, the canonical form, and the range of indices. -/

namespace Sys2Proof.Machine

variable {w : Nat}

@[simp] theorem Memory.read_nil (k : Nat) : Memory.read ([] : Memory w) k = 0 := rfl

theorem Memory.read_cons (a : Nat) (v : BitVec w) (m : Memory w) (k : Nat) :
    Memory.read ((a, v) :: m) k = if a = k then v else Memory.read m k := rfl

/-- An index below every listed index reads as unlisted. -/
theorem Memory.read_below (m : Memory w) (k : Nat) (h : ∀ c ∈ m, k < c.1) : Memory.read m k = 0 := by
  induction m with
  | nil => rfl
  | cons c m ih =>
    obtain ⟨a, v⟩ := c
    have ha : k < a := h (a, v) (by simp)
    rw [Memory.read_cons, if_neg (by omega), ih fun c hc => h c (by simp [hc])]

theorem Memory.wf_tail {c : Nat × BitVec w} {m : Memory w} (h : Memory.wf (c :: m)) : Memory.wf m :=
  ⟨(List.pairwise_cons.mp h.1).2, fun d hd => h.2 d (by simp [hd])⟩

theorem Memory.wf_head_lt {c : Nat × BitVec w} {m : Memory w} (h : Memory.wf (c :: m)) : ∀ d ∈ m, c.1 < d.1 :=
  (List.pairwise_cons.mp h.1).1

theorem Memory.wf_nil : Memory.wf ([] : Memory w) := ⟨List.Pairwise.nil, by simp⟩

/-- What a write lists: the cells it had, or the cell it stores. -/
theorem Memory.mem_write {m : Memory w} {k : Nat} {v : BitVec w} {c : Nat × BitVec w}
    (h : c ∈ Memory.write m k v) : c ∈ m ∨ (c = (k, v) ∧ v ≠ 0) := by
  induction m with
  | nil =>
    simp only [Memory.write] at h
    split at h <;> simp_all
  | cons d m ih =>
    obtain ⟨a, x⟩ := d
    simp only [Memory.write] at h
    split_ifs at h
    · exact .inl h
    · rcases List.mem_cons.mp h with rfl | h
      · exact .inr ⟨rfl, ‹_›⟩
      · exact .inl h
    · exact .inl (by simp [h])
    · rcases List.mem_cons.mp h with rfl | h
      · exact .inr ⟨rfl, ‹_›⟩
      · exact .inl (by simp [h])
    · rcases List.mem_cons.mp h with rfl | h
      · exact .inl (by simp)
      · rcases ih h with h | h
        · exact .inl (by simp [h])
        · exact .inr h

/-- A write keeps the canonical form. -/
theorem Memory.write_wf {m : Memory w} (h : Memory.wf m) (k : Nat) (v : BitVec w) : Memory.wf (Memory.write m k v) := by
  induction m with
  | nil =>
    simp only [Memory.write]
    split
    · exact Memory.wf_nil
    · exact ⟨by simp, by simpa⟩
  | cons d m ih =>
    obtain ⟨a, x⟩ := d
    have hlt := Memory.wf_head_lt h
    have ht := Memory.wf_tail h
    simp only [Memory.write]
    split_ifs with hka hv hka' hv
    · exact h
    · refine ⟨List.pairwise_cons.mpr ⟨fun c hc => ?_, h.1⟩, fun c hc => ?_⟩
      · rcases List.mem_cons.mp hc with rfl | hc
        · exact hka
        · exact lt_trans hka (hlt c hc)
      · rcases List.mem_cons.mp hc with rfl | hc
        · exact hv
        · exact h.2 c hc
    · exact ht
    · refine ⟨List.pairwise_cons.mpr ⟨fun c hc => by simpa [hka'] using hlt c hc, ht.1⟩, fun c hc => ?_⟩
      rcases List.mem_cons.mp hc with rfl | hc
      · exact hv
      · exact ht.2 c hc
    · have hw := ih ht
      refine ⟨List.pairwise_cons.mpr ⟨fun c hc => ?_, hw.1⟩, fun c hc => ?_⟩
      · rcases Memory.mem_write hc with hc | ⟨rfl, -⟩
        · exact hlt c hc
        · show a < k
          omega
      · rcases List.mem_cons.mp hc with rfl | hc
        · exact h.2 _ (by simp)
        · exact hw.2 c hc

/-- A write below `n` lists no index at `n` or above. -/
theorem Memory.write_below {m : Memory w} {n : Nat} (h : Memory.below m n) {k : Nat} (hk : k < n) (v : BitVec w) :
    Memory.below (Memory.write m k v) n := by
  intro c hc
  rcases Memory.mem_write hc with hc | ⟨rfl, -⟩
  · exact h c hc
  · exact hk

/-- Reading the index just written gives the value written. -/
theorem Memory.read_write_same {m : Memory w} (h : Memory.wf m) (k : Nat) (v : BitVec w) :
    Memory.read (Memory.write m k v) k = v := by
  induction m with
  | nil =>
    simp only [Memory.write]
    split <;> simp_all [Memory.read]
  | cons d m ih =>
    obtain ⟨a, x⟩ := d
    have hlt := Memory.wf_head_lt h
    simp only [Memory.write]
    split_ifs with hka hv hka' hv
    · subst hv
      refine Memory.read_below _ _ fun c hc => ?_
      rcases List.mem_cons.mp hc with rfl | hc
      · exact hka
      · exact lt_trans hka (hlt c hc)
    · simp [Memory.read_cons]
    · subst hv hka'
      exact Memory.read_below _ _ fun c hc => hlt c hc
    · simp [Memory.read_cons]
    · rw [Memory.read_cons, if_neg (by omega), ih (Memory.wf_tail h)]

/-- A write leaves every other index alone. -/
theorem Memory.read_write_other (m : Memory w) {k j : Nat} (hj : j ≠ k) (v : BitVec w) :
    Memory.read (Memory.write m k v) j = Memory.read m j := by
  induction m with
  | nil =>
    simp only [Memory.write]
    split <;> simp [Memory.read, hj.symm]
  | cons d m ih =>
    obtain ⟨a, x⟩ := d
    simp only [Memory.write]
    split_ifs with hka hv hka' hv
    · rfl
    · rw [Memory.read_cons, if_neg hj.symm]
    · rw [Memory.read_cons, if_neg (by omega)]
    · rw [Memory.read_cons, if_neg hj.symm, Memory.read_cons, if_neg (by omega)]
    · rw [Memory.read_cons, Memory.read_cons, ih]

theorem Memory.read_write {m : Memory w} (h : Memory.wf m) (k j : Nat) (v : BitVec w) :
    Memory.read (Memory.write m k v) j = if j = k then v else Memory.read m j := by
  split
  · subst j; exact Memory.read_write_same h k v
  · exact Memory.read_write_other m ‹_› v

theorem Memory.mem_ofListFrom {vs : List (BitVec w)} {n : Nat} {c : Nat × BitVec w}
    (h : c ∈ Memory.ofListFrom n vs) : n ≤ c.1 ∧ c.1 < n + vs.length ∧ c.2 ≠ 0 := by
  induction vs generalizing n with
  | nil => simp [Memory.ofListFrom] at h
  | cons v vs ih =>
    simp only [Memory.ofListFrom] at h
    split_ifs at h with hv
    · have := ih h
      simp only [List.length_cons]
      exact ⟨by omega, by omega, this.2.2⟩
    · rcases List.mem_cons.mp h with rfl | h
      · exact ⟨le_refl _, by simp, hv⟩
      · have := ih h
        simp only [List.length_cons]
        exact ⟨by omega, by omega, this.2.2⟩

theorem Memory.ofListFrom_wf (vs : List (BitVec w)) (n : Nat) : Memory.wf (Memory.ofListFrom n vs) := by
  refine ⟨?_, fun c hc => (Memory.mem_ofListFrom hc).2.2⟩
  induction vs generalizing n with
  | nil => simp [Memory.ofListFrom]
  | cons v vs ih =>
    simp only [Memory.ofListFrom]
    split_ifs
    · exact ih _
    · exact List.pairwise_cons.mpr ⟨fun c hc => (Memory.mem_ofListFrom hc).1, ih _⟩

/-- A block on offer is in canonical form, with no sample at its length or above. -/
theorem Memory.ofList_wf (vs : List (BitVec w)) : Memory.wf (Memory.ofList vs) := Memory.ofListFrom_wf vs 0

theorem Memory.ofList_below (vs : List (BitVec w)) : Memory.below (Memory.ofList vs) vs.length := by
  intro c hc
  simpa using (Memory.mem_ofListFrom hc).2.1

theorem Memory.read_ofListFrom (vs : List (BitVec w)) (n k : Nat) :
    Memory.read (Memory.ofListFrom n vs) (n + k) = vs[k]?.getD 0 := by
  induction vs generalizing n k with
  | nil => simp [Memory.ofListFrom]
  | cons v vs ih =>
    simp only [Memory.ofListFrom]
    cases k with
    | zero =>
      split_ifs with hv
      · subst hv
        exact Memory.read_below _ _ fun c hc => by
          have := (Memory.mem_ofListFrom hc).1
          omega
      · simp [Memory.read_cons]
    | succ k =>
      have h := ih (n + 1) k
      rw [show n + 1 + k = n + (k + 1) by omega] at h
      split_ifs
      · simpa using h
      · rw [Memory.read_cons, if_neg (by omega)]
        simpa using h

/-- Sample `k` of a block on offer. -/
theorem Memory.read_ofList (vs : List (BitVec w)) (k : Nat) : Memory.read (Memory.ofList vs) k = vs[k]?.getD 0 := by
  have h := Memory.read_ofListFrom vs 0 k
  rw [Nat.zero_add] at h
  exact h

theorem Memory.below_nil (n : Nat) : Memory.below ([] : Memory w) n := by simp [Memory.below]

/-- Every array is in canonical form at reset. -/
theorem reset_memory_wf : Memory.wf State.reset.mag ∧ Memory.wf State.reset.ph ∧ Memory.wf State.reset.blkI ∧
    Memory.wf State.reset.blkQ :=
  ⟨Memory.wf_nil, Memory.wf_nil, Memory.wf_nil, Memory.wf_nil⟩

end Sys2Proof.Machine
end

