-- ==== Sys2Proof/Laws/State.lean ====
section
/-! SUPPORT. The small lemmas of the named state updates: one per field per update, each true by computation, so that no later
proof unfolds a record update. -/

namespace Sys2Proof.Machine

@[simp] theorem State.raiseFault_par (c : Cause) (s : State) : (s.raiseFault c).par = s.par := rfl
@[simp] theorem State.raiseFault_mode (c : Cause) (s : State) : (s.raiseFault c).mode = s.mode := rfl
@[simp] theorem State.raiseFault_cfg (c : Cause) (s : State) : (s.raiseFault c).cfg = s.cfg := rfl
@[simp] theorem State.raiseFault_dlI (c : Cause) (s : State) : (s.raiseFault c).dlI = s.dlI := rfl
@[simp] theorem State.raiseFault_dlQ (c : Cause) (s : State) : (s.raiseFault c).dlQ = s.dlQ := rfl
@[simp] theorem State.raiseFault_rem (c : Cause) (s : State) : (s.raiseFault c).rem = s.rem := rfl
@[simp] theorem State.raiseFault_widx (c : Cause) (s : State) : (s.raiseFault c).widx = s.widx := rfl
@[simp] theorem State.raiseFault_rpos (c : Cause) (s : State) : (s.raiseFault c).rpos = s.rpos := rfl
@[simp] theorem State.raiseFault_avail (c : Cause) (s : State) : (s.raiseFault c).avail = s.avail := rfl
@[simp] theorem State.raiseFault_mag (c : Cause) (s : State) : (s.raiseFault c).mag = s.mag := rfl
@[simp] theorem State.raiseFault_ph (c : Cause) (s : State) : (s.raiseFault c).ph = s.ph := rfl
@[simp] theorem State.raiseFault_arg0 (c : Cause) (s : State) : (s.raiseFault c).arg0 = s.arg0 := rfl
@[simp] theorem State.raiseFault_arg1 (c : Cause) (s : State) : (s.raiseFault c).arg1 = s.arg1 := rfl
@[simp] theorem State.raiseFault_res0 (c : Cause) (s : State) : (s.raiseFault c).res0 = s.res0 := rfl
@[simp] theorem State.raiseFault_res1 (c : Cause) (s : State) : (s.raiseFault c).res1 = s.res1 := rfl
@[simp] theorem State.raiseFault_busy (c : Cause) (s : State) : (s.raiseFault c).busy = s.busy := rfl
@[simp] theorem State.raiseFault_fault (c : Cause) (s : State) : (s.raiseFault c).fault = true := rfl
@[simp] theorem State.raiseFault_fcause (c : Cause) (s : State) : (s.raiseFault c).fcause = if s.fault then s.fcause else c := rfl
@[simp] theorem State.raiseFault_sidx (c : Cause) (s : State) : (s.raiseFault c).sidx = s.sidx := rfl
@[simp] theorem State.raiseFault_acqI (c : Cause) (s : State) : (s.raiseFault c).acqI = s.acqI := rfl
@[simp] theorem State.raiseFault_acqQ (c : Cause) (s : State) : (s.raiseFault c).acqQ = s.acqQ := rfl
@[simp] theorem State.raiseFault_held (c : Cause) (s : State) : (s.raiseFault c).held = s.held := rfl
@[simp] theorem State.raiseFault_presentI (c : Cause) (s : State) : (s.raiseFault c).presentI = s.presentI := rfl
@[simp] theorem State.raiseFault_presentQ (c : Cause) (s : State) : (s.raiseFault c).presentQ = s.presentQ := rfl
@[simp] theorem State.raiseFault_blkI (c : Cause) (s : State) : (s.raiseFault c).blkI = s.blkI := rfl
@[simp] theorem State.raiseFault_blkQ (c : Cause) (s : State) : (s.raiseFault c).blkQ = s.blkQ := rfl
@[simp] theorem State.raiseFault_events (c : Cause) (s : State) : (s.raiseFault c).events = s.events := rfl
@[simp] theorem State.raiseFault_published (c : Cause) (s : State) : (s.raiseFault c).published = s.published := rfl
@[simp] theorem State.raiseFault_busData (c : Cause) (s : State) : (s.raiseFault c).busData = s.busData := rfl
@[simp] theorem State.raiseFault_hostIn (c : Cause) (s : State) : (s.raiseFault c).hostIn = s.hostIn := rfl
@[simp] theorem State.raiseFault_transIn (c : Cause) (s : State) : (s.raiseFault c).transIn = s.transIn := rfl
@[simp] theorem State.raiseFault_turns (c : Cause) (s : State) : (s.raiseFault c).turns = s.turns := rfl

@[simp] theorem State.clearFault_par (s : State) : (s.clearFault).par = s.par := rfl
@[simp] theorem State.clearFault_mode (s : State) : (s.clearFault).mode = s.mode := rfl
@[simp] theorem State.clearFault_cfg (s : State) : (s.clearFault).cfg = s.cfg := rfl
@[simp] theorem State.clearFault_dlI (s : State) : (s.clearFault).dlI = s.dlI := rfl
@[simp] theorem State.clearFault_dlQ (s : State) : (s.clearFault).dlQ = s.dlQ := rfl
@[simp] theorem State.clearFault_rem (s : State) : (s.clearFault).rem = s.rem := rfl
@[simp] theorem State.clearFault_widx (s : State) : (s.clearFault).widx = s.widx := rfl
@[simp] theorem State.clearFault_rpos (s : State) : (s.clearFault).rpos = s.rpos := rfl
@[simp] theorem State.clearFault_avail (s : State) : (s.clearFault).avail = s.avail := rfl
@[simp] theorem State.clearFault_mag (s : State) : (s.clearFault).mag = s.mag := rfl
@[simp] theorem State.clearFault_ph (s : State) : (s.clearFault).ph = s.ph := rfl
@[simp] theorem State.clearFault_arg0 (s : State) : (s.clearFault).arg0 = s.arg0 := rfl
@[simp] theorem State.clearFault_arg1 (s : State) : (s.clearFault).arg1 = s.arg1 := rfl
@[simp] theorem State.clearFault_res0 (s : State) : (s.clearFault).res0 = s.res0 := rfl
@[simp] theorem State.clearFault_res1 (s : State) : (s.clearFault).res1 = s.res1 := rfl
@[simp] theorem State.clearFault_busy (s : State) : (s.clearFault).busy = s.busy := rfl
@[simp] theorem State.clearFault_fault (s : State) : (s.clearFault).fault = false := rfl
@[simp] theorem State.clearFault_fcause (s : State) : (s.clearFault).fcause = .none := rfl
@[simp] theorem State.clearFault_sidx (s : State) : (s.clearFault).sidx = s.sidx := rfl
@[simp] theorem State.clearFault_acqI (s : State) : (s.clearFault).acqI = s.acqI := rfl
@[simp] theorem State.clearFault_acqQ (s : State) : (s.clearFault).acqQ = s.acqQ := rfl
@[simp] theorem State.clearFault_held (s : State) : (s.clearFault).held = s.held := rfl
@[simp] theorem State.clearFault_presentI (s : State) : (s.clearFault).presentI = s.presentI := rfl
@[simp] theorem State.clearFault_presentQ (s : State) : (s.clearFault).presentQ = s.presentQ := rfl
@[simp] theorem State.clearFault_blkI (s : State) : (s.clearFault).blkI = s.blkI := rfl
@[simp] theorem State.clearFault_blkQ (s : State) : (s.clearFault).blkQ = s.blkQ := rfl
@[simp] theorem State.clearFault_events (s : State) : (s.clearFault).events = s.events := rfl
@[simp] theorem State.clearFault_published (s : State) : (s.clearFault).published = s.published := rfl
@[simp] theorem State.clearFault_busData (s : State) : (s.clearFault).busData = s.busData := rfl
@[simp] theorem State.clearFault_hostIn (s : State) : (s.clearFault).hostIn = s.hostIn := rfl
@[simp] theorem State.clearFault_transIn (s : State) : (s.clearFault).transIn = s.transIn := rfl
@[simp] theorem State.clearFault_turns (s : State) : (s.clearFault).turns = s.turns := rfl

@[simp] theorem State.setRes0_par (v : BitVec 32) (s : State) : (s.setRes0 v).par = s.par := rfl
@[simp] theorem State.setRes0_mode (v : BitVec 32) (s : State) : (s.setRes0 v).mode = s.mode := rfl
@[simp] theorem State.setRes0_cfg (v : BitVec 32) (s : State) : (s.setRes0 v).cfg = s.cfg := rfl
@[simp] theorem State.setRes0_dlI (v : BitVec 32) (s : State) : (s.setRes0 v).dlI = s.dlI := rfl
@[simp] theorem State.setRes0_dlQ (v : BitVec 32) (s : State) : (s.setRes0 v).dlQ = s.dlQ := rfl
@[simp] theorem State.setRes0_rem (v : BitVec 32) (s : State) : (s.setRes0 v).rem = s.rem := rfl
@[simp] theorem State.setRes0_widx (v : BitVec 32) (s : State) : (s.setRes0 v).widx = s.widx := rfl
@[simp] theorem State.setRes0_rpos (v : BitVec 32) (s : State) : (s.setRes0 v).rpos = s.rpos := rfl
@[simp] theorem State.setRes0_avail (v : BitVec 32) (s : State) : (s.setRes0 v).avail = s.avail := rfl
@[simp] theorem State.setRes0_mag (v : BitVec 32) (s : State) : (s.setRes0 v).mag = s.mag := rfl
@[simp] theorem State.setRes0_ph (v : BitVec 32) (s : State) : (s.setRes0 v).ph = s.ph := rfl
@[simp] theorem State.setRes0_arg0 (v : BitVec 32) (s : State) : (s.setRes0 v).arg0 = s.arg0 := rfl
@[simp] theorem State.setRes0_arg1 (v : BitVec 32) (s : State) : (s.setRes0 v).arg1 = s.arg1 := rfl
@[simp] theorem State.setRes0_res0 (v : BitVec 32) (s : State) : (s.setRes0 v).res0 = v := rfl
@[simp] theorem State.setRes0_res1 (v : BitVec 32) (s : State) : (s.setRes0 v).res1 = s.res1 := rfl
@[simp] theorem State.setRes0_busy (v : BitVec 32) (s : State) : (s.setRes0 v).busy = s.busy := rfl
@[simp] theorem State.setRes0_fault (v : BitVec 32) (s : State) : (s.setRes0 v).fault = s.fault := rfl
@[simp] theorem State.setRes0_fcause (v : BitVec 32) (s : State) : (s.setRes0 v).fcause = s.fcause := rfl
@[simp] theorem State.setRes0_sidx (v : BitVec 32) (s : State) : (s.setRes0 v).sidx = s.sidx := rfl
@[simp] theorem State.setRes0_acqI (v : BitVec 32) (s : State) : (s.setRes0 v).acqI = s.acqI := rfl
@[simp] theorem State.setRes0_acqQ (v : BitVec 32) (s : State) : (s.setRes0 v).acqQ = s.acqQ := rfl
@[simp] theorem State.setRes0_held (v : BitVec 32) (s : State) : (s.setRes0 v).held = s.held := rfl
@[simp] theorem State.setRes0_presentI (v : BitVec 32) (s : State) : (s.setRes0 v).presentI = s.presentI := rfl
@[simp] theorem State.setRes0_presentQ (v : BitVec 32) (s : State) : (s.setRes0 v).presentQ = s.presentQ := rfl
@[simp] theorem State.setRes0_blkI (v : BitVec 32) (s : State) : (s.setRes0 v).blkI = s.blkI := rfl
@[simp] theorem State.setRes0_blkQ (v : BitVec 32) (s : State) : (s.setRes0 v).blkQ = s.blkQ := rfl
@[simp] theorem State.setRes0_events (v : BitVec 32) (s : State) : (s.setRes0 v).events = s.events := rfl
@[simp] theorem State.setRes0_published (v : BitVec 32) (s : State) : (s.setRes0 v).published = s.published := rfl
@[simp] theorem State.setRes0_busData (v : BitVec 32) (s : State) : (s.setRes0 v).busData = s.busData := rfl
@[simp] theorem State.setRes0_hostIn (v : BitVec 32) (s : State) : (s.setRes0 v).hostIn = s.hostIn := rfl
@[simp] theorem State.setRes0_transIn (v : BitVec 32) (s : State) : (s.setRes0 v).transIn = s.transIn := rfl
@[simp] theorem State.setRes0_turns (v : BitVec 32) (s : State) : (s.setRes0 v).turns = s.turns := rfl

@[simp] theorem State.setRes1_par (v : BitVec 32) (s : State) : (s.setRes1 v).par = s.par := rfl
@[simp] theorem State.setRes1_mode (v : BitVec 32) (s : State) : (s.setRes1 v).mode = s.mode := rfl
@[simp] theorem State.setRes1_cfg (v : BitVec 32) (s : State) : (s.setRes1 v).cfg = s.cfg := rfl
@[simp] theorem State.setRes1_dlI (v : BitVec 32) (s : State) : (s.setRes1 v).dlI = s.dlI := rfl
@[simp] theorem State.setRes1_dlQ (v : BitVec 32) (s : State) : (s.setRes1 v).dlQ = s.dlQ := rfl
@[simp] theorem State.setRes1_rem (v : BitVec 32) (s : State) : (s.setRes1 v).rem = s.rem := rfl
@[simp] theorem State.setRes1_widx (v : BitVec 32) (s : State) : (s.setRes1 v).widx = s.widx := rfl
@[simp] theorem State.setRes1_rpos (v : BitVec 32) (s : State) : (s.setRes1 v).rpos = s.rpos := rfl
@[simp] theorem State.setRes1_avail (v : BitVec 32) (s : State) : (s.setRes1 v).avail = s.avail := rfl
@[simp] theorem State.setRes1_mag (v : BitVec 32) (s : State) : (s.setRes1 v).mag = s.mag := rfl
@[simp] theorem State.setRes1_ph (v : BitVec 32) (s : State) : (s.setRes1 v).ph = s.ph := rfl
@[simp] theorem State.setRes1_arg0 (v : BitVec 32) (s : State) : (s.setRes1 v).arg0 = s.arg0 := rfl
@[simp] theorem State.setRes1_arg1 (v : BitVec 32) (s : State) : (s.setRes1 v).arg1 = s.arg1 := rfl
@[simp] theorem State.setRes1_res0 (v : BitVec 32) (s : State) : (s.setRes1 v).res0 = s.res0 := rfl
@[simp] theorem State.setRes1_res1 (v : BitVec 32) (s : State) : (s.setRes1 v).res1 = v := rfl
@[simp] theorem State.setRes1_busy (v : BitVec 32) (s : State) : (s.setRes1 v).busy = s.busy := rfl
@[simp] theorem State.setRes1_fault (v : BitVec 32) (s : State) : (s.setRes1 v).fault = s.fault := rfl
@[simp] theorem State.setRes1_fcause (v : BitVec 32) (s : State) : (s.setRes1 v).fcause = s.fcause := rfl
@[simp] theorem State.setRes1_sidx (v : BitVec 32) (s : State) : (s.setRes1 v).sidx = s.sidx := rfl
@[simp] theorem State.setRes1_acqI (v : BitVec 32) (s : State) : (s.setRes1 v).acqI = s.acqI := rfl
@[simp] theorem State.setRes1_acqQ (v : BitVec 32) (s : State) : (s.setRes1 v).acqQ = s.acqQ := rfl
@[simp] theorem State.setRes1_held (v : BitVec 32) (s : State) : (s.setRes1 v).held = s.held := rfl
@[simp] theorem State.setRes1_presentI (v : BitVec 32) (s : State) : (s.setRes1 v).presentI = s.presentI := rfl
@[simp] theorem State.setRes1_presentQ (v : BitVec 32) (s : State) : (s.setRes1 v).presentQ = s.presentQ := rfl
@[simp] theorem State.setRes1_blkI (v : BitVec 32) (s : State) : (s.setRes1 v).blkI = s.blkI := rfl
@[simp] theorem State.setRes1_blkQ (v : BitVec 32) (s : State) : (s.setRes1 v).blkQ = s.blkQ := rfl
@[simp] theorem State.setRes1_events (v : BitVec 32) (s : State) : (s.setRes1 v).events = s.events := rfl
@[simp] theorem State.setRes1_published (v : BitVec 32) (s : State) : (s.setRes1 v).published = s.published := rfl
@[simp] theorem State.setRes1_busData (v : BitVec 32) (s : State) : (s.setRes1 v).busData = s.busData := rfl
@[simp] theorem State.setRes1_hostIn (v : BitVec 32) (s : State) : (s.setRes1 v).hostIn = s.hostIn := rfl
@[simp] theorem State.setRes1_transIn (v : BitVec 32) (s : State) : (s.setRes1 v).transIn = s.transIn := rfl
@[simp] theorem State.setRes1_turns (v : BitVec 32) (s : State) : (s.setRes1 v).turns = s.turns := rfl

@[simp] theorem State.clearPipeline_par (s : State) : (s.clearPipeline).par = s.par := rfl
@[simp] theorem State.clearPipeline_mode (s : State) : (s.clearPipeline).mode = s.mode := rfl
@[simp] theorem State.clearPipeline_cfg (s : State) : (s.clearPipeline).cfg = s.cfg := rfl
@[simp] theorem State.clearPipeline_dlI (s : State) : (s.clearPipeline).dlI = DelayLine.zero := rfl
@[simp] theorem State.clearPipeline_dlQ (s : State) : (s.clearPipeline).dlQ = DelayLine.zero := rfl
@[simp] theorem State.clearPipeline_rem (s : State) : (s.clearPipeline).rem = 0 := rfl
@[simp] theorem State.clearPipeline_widx (s : State) : (s.clearPipeline).widx = 0 := rfl
@[simp] theorem State.clearPipeline_rpos (s : State) : (s.clearPipeline).rpos = 0 := rfl
@[simp] theorem State.clearPipeline_avail (s : State) : (s.clearPipeline).avail = false := rfl
@[simp] theorem State.clearPipeline_mag (s : State) : (s.clearPipeline).mag = [] := rfl
@[simp] theorem State.clearPipeline_ph (s : State) : (s.clearPipeline).ph = [] := rfl
@[simp] theorem State.clearPipeline_arg0 (s : State) : (s.clearPipeline).arg0 = s.arg0 := rfl
@[simp] theorem State.clearPipeline_arg1 (s : State) : (s.clearPipeline).arg1 = s.arg1 := rfl
@[simp] theorem State.clearPipeline_res0 (s : State) : (s.clearPipeline).res0 = s.res0 := rfl
@[simp] theorem State.clearPipeline_res1 (s : State) : (s.clearPipeline).res1 = s.res1 := rfl
@[simp] theorem State.clearPipeline_busy (s : State) : (s.clearPipeline).busy = s.busy := rfl
@[simp] theorem State.clearPipeline_fault (s : State) : (s.clearPipeline).fault = s.fault := rfl
@[simp] theorem State.clearPipeline_fcause (s : State) : (s.clearPipeline).fcause = s.fcause := rfl
@[simp] theorem State.clearPipeline_sidx (s : State) : (s.clearPipeline).sidx = s.sidx := rfl
@[simp] theorem State.clearPipeline_acqI (s : State) : (s.clearPipeline).acqI = s.acqI := rfl
@[simp] theorem State.clearPipeline_acqQ (s : State) : (s.clearPipeline).acqQ = s.acqQ := rfl
@[simp] theorem State.clearPipeline_held (s : State) : (s.clearPipeline).held = s.held := rfl
@[simp] theorem State.clearPipeline_presentI (s : State) : (s.clearPipeline).presentI = s.presentI := rfl
@[simp] theorem State.clearPipeline_presentQ (s : State) : (s.clearPipeline).presentQ = s.presentQ := rfl
@[simp] theorem State.clearPipeline_blkI (s : State) : (s.clearPipeline).blkI = s.blkI := rfl
@[simp] theorem State.clearPipeline_blkQ (s : State) : (s.clearPipeline).blkQ = s.blkQ := rfl
@[simp] theorem State.clearPipeline_events (s : State) : (s.clearPipeline).events = s.events := rfl
@[simp] theorem State.clearPipeline_published (s : State) : (s.clearPipeline).published = s.published := rfl
@[simp] theorem State.clearPipeline_busData (s : State) : (s.clearPipeline).busData = s.busData := rfl
@[simp] theorem State.clearPipeline_hostIn (s : State) : (s.clearPipeline).hostIn = s.hostIn := rfl
@[simp] theorem State.clearPipeline_transIn (s : State) : (s.clearPipeline).transIn = s.transIn := rfl
@[simp] theorem State.clearPipeline_turns (s : State) : (s.clearPipeline).turns = s.turns := rfl

@[simp] theorem State.resetCore_par (s : State) : (s.resetCore).par = s.par := rfl
@[simp] theorem State.resetCore_mode (s : State) : (s.resetCore).mode = State.reset.mode := rfl
@[simp] theorem State.resetCore_cfg (s : State) : (s.resetCore).cfg = State.reset.cfg := rfl
@[simp] theorem State.resetCore_dlI (s : State) : (s.resetCore).dlI = State.reset.dlI := rfl
@[simp] theorem State.resetCore_dlQ (s : State) : (s.resetCore).dlQ = State.reset.dlQ := rfl
@[simp] theorem State.resetCore_rem (s : State) : (s.resetCore).rem = State.reset.rem := rfl
@[simp] theorem State.resetCore_widx (s : State) : (s.resetCore).widx = State.reset.widx := rfl
@[simp] theorem State.resetCore_rpos (s : State) : (s.resetCore).rpos = State.reset.rpos := rfl
@[simp] theorem State.resetCore_avail (s : State) : (s.resetCore).avail = State.reset.avail := rfl
@[simp] theorem State.resetCore_mag (s : State) : (s.resetCore).mag = State.reset.mag := rfl
@[simp] theorem State.resetCore_ph (s : State) : (s.resetCore).ph = State.reset.ph := rfl
@[simp] theorem State.resetCore_arg0 (s : State) : (s.resetCore).arg0 = State.reset.arg0 := rfl
@[simp] theorem State.resetCore_arg1 (s : State) : (s.resetCore).arg1 = State.reset.arg1 := rfl
@[simp] theorem State.resetCore_res0 (s : State) : (s.resetCore).res0 = State.reset.res0 := rfl
@[simp] theorem State.resetCore_res1 (s : State) : (s.resetCore).res1 = State.reset.res1 := rfl
@[simp] theorem State.resetCore_busy (s : State) : (s.resetCore).busy = State.reset.busy := rfl
@[simp] theorem State.resetCore_fault (s : State) : (s.resetCore).fault = State.reset.fault := rfl
@[simp] theorem State.resetCore_fcause (s : State) : (s.resetCore).fcause = State.reset.fcause := rfl
@[simp] theorem State.resetCore_sidx (s : State) : (s.resetCore).sidx = State.reset.sidx := rfl
@[simp] theorem State.resetCore_acqI (s : State) : (s.resetCore).acqI = State.reset.acqI := rfl
@[simp] theorem State.resetCore_acqQ (s : State) : (s.resetCore).acqQ = State.reset.acqQ := rfl
@[simp] theorem State.resetCore_held (s : State) : (s.resetCore).held = State.reset.held := rfl
@[simp] theorem State.resetCore_presentI (s : State) : (s.resetCore).presentI = s.presentI := rfl
@[simp] theorem State.resetCore_presentQ (s : State) : (s.resetCore).presentQ = s.presentQ := rfl
@[simp] theorem State.resetCore_blkI (s : State) : (s.resetCore).blkI = s.blkI := rfl
@[simp] theorem State.resetCore_blkQ (s : State) : (s.resetCore).blkQ = s.blkQ := rfl
@[simp] theorem State.resetCore_events (s : State) : (s.resetCore).events = s.events := rfl
@[simp] theorem State.resetCore_published (s : State) : (s.resetCore).published = s.published := rfl
@[simp] theorem State.resetCore_busData (s : State) : (s.resetCore).busData = s.busData := rfl
@[simp] theorem State.resetCore_hostIn (s : State) : (s.resetCore).hostIn = s.hostIn := rfl
@[simp] theorem State.resetCore_transIn (s : State) : (s.resetCore).transIn = s.transIn := rfl
@[simp] theorem State.resetCore_turns (s : State) : (s.resetCore).turns = s.turns := rfl

@[simp] theorem State.restartTransport_par (acts : List TransportAct) (s : State) : (s.restartTransport acts).par = s.par := rfl
@[simp] theorem State.restartTransport_mode (acts : List TransportAct) (s : State) : (s.restartTransport acts).mode = s.mode := rfl
@[simp] theorem State.restartTransport_cfg (acts : List TransportAct) (s : State) : (s.restartTransport acts).cfg = s.cfg := rfl
@[simp] theorem State.restartTransport_dlI (acts : List TransportAct) (s : State) : (s.restartTransport acts).dlI = s.dlI := rfl
@[simp] theorem State.restartTransport_dlQ (acts : List TransportAct) (s : State) : (s.restartTransport acts).dlQ = s.dlQ := rfl
@[simp] theorem State.restartTransport_rem (acts : List TransportAct) (s : State) : (s.restartTransport acts).rem = s.rem := rfl
@[simp] theorem State.restartTransport_widx (acts : List TransportAct) (s : State) : (s.restartTransport acts).widx = s.widx := rfl
@[simp] theorem State.restartTransport_rpos (acts : List TransportAct) (s : State) : (s.restartTransport acts).rpos = s.rpos := rfl
@[simp] theorem State.restartTransport_avail (acts : List TransportAct) (s : State) : (s.restartTransport acts).avail = s.avail := rfl
@[simp] theorem State.restartTransport_mag (acts : List TransportAct) (s : State) : (s.restartTransport acts).mag = s.mag := rfl
@[simp] theorem State.restartTransport_ph (acts : List TransportAct) (s : State) : (s.restartTransport acts).ph = s.ph := rfl
@[simp] theorem State.restartTransport_arg0 (acts : List TransportAct) (s : State) : (s.restartTransport acts).arg0 = s.arg0 := rfl
@[simp] theorem State.restartTransport_arg1 (acts : List TransportAct) (s : State) : (s.restartTransport acts).arg1 = s.arg1 := rfl
@[simp] theorem State.restartTransport_res0 (acts : List TransportAct) (s : State) : (s.restartTransport acts).res0 = s.res0 := rfl
@[simp] theorem State.restartTransport_res1 (acts : List TransportAct) (s : State) : (s.restartTransport acts).res1 = s.res1 := rfl
@[simp] theorem State.restartTransport_busy (acts : List TransportAct) (s : State) : (s.restartTransport acts).busy = s.busy := rfl
@[simp] theorem State.restartTransport_fault (acts : List TransportAct) (s : State) : (s.restartTransport acts).fault = s.fault := rfl
@[simp] theorem State.restartTransport_fcause (acts : List TransportAct) (s : State) : (s.restartTransport acts).fcause = s.fcause := rfl
@[simp] theorem State.restartTransport_sidx (acts : List TransportAct) (s : State) : (s.restartTransport acts).sidx = s.sidx := rfl
@[simp] theorem State.restartTransport_acqI (acts : List TransportAct) (s : State) : (s.restartTransport acts).acqI = s.acqI := rfl
@[simp] theorem State.restartTransport_acqQ (acts : List TransportAct) (s : State) : (s.restartTransport acts).acqQ = s.acqQ := rfl
@[simp] theorem State.restartTransport_held (acts : List TransportAct) (s : State) : (s.restartTransport acts).held = s.held := rfl
@[simp] theorem State.restartTransport_presentI (acts : List TransportAct) (s : State) : (s.restartTransport acts).presentI = false := rfl
@[simp] theorem State.restartTransport_presentQ (acts : List TransportAct) (s : State) : (s.restartTransport acts).presentQ = false := rfl
@[simp] theorem State.restartTransport_blkI (acts : List TransportAct) (s : State) : (s.restartTransport acts).blkI = s.blkI := rfl
@[simp] theorem State.restartTransport_blkQ (acts : List TransportAct) (s : State) : (s.restartTransport acts).blkQ = s.blkQ := rfl
@[simp] theorem State.restartTransport_events (acts : List TransportAct) (s : State) : (s.restartTransport acts).events = s.events := rfl
@[simp] theorem State.restartTransport_published (acts : List TransportAct) (s : State) : (s.restartTransport acts).published = s.published := rfl
@[simp] theorem State.restartTransport_busData (acts : List TransportAct) (s : State) : (s.restartTransport acts).busData = s.busData := rfl
@[simp] theorem State.restartTransport_hostIn (acts : List TransportAct) (s : State) : (s.restartTransport acts).hostIn = s.hostIn := rfl
@[simp] theorem State.restartTransport_transIn (acts : List TransportAct) (s : State) : (s.restartTransport acts).transIn = acts := rfl
@[simp] theorem State.restartTransport_turns (acts : List TransportAct) (s : State) : (s.restartTransport acts).turns = s.turns := rfl

@[simp] theorem State.record_par (e : Event) (s : State) : (s.record e).par = s.par := rfl
@[simp] theorem State.record_mode (e : Event) (s : State) : (s.record e).mode = s.mode := rfl
@[simp] theorem State.record_cfg (e : Event) (s : State) : (s.record e).cfg = s.cfg := rfl
@[simp] theorem State.record_dlI (e : Event) (s : State) : (s.record e).dlI = s.dlI := rfl
@[simp] theorem State.record_dlQ (e : Event) (s : State) : (s.record e).dlQ = s.dlQ := rfl
@[simp] theorem State.record_rem (e : Event) (s : State) : (s.record e).rem = s.rem := rfl
@[simp] theorem State.record_widx (e : Event) (s : State) : (s.record e).widx = s.widx := rfl
@[simp] theorem State.record_rpos (e : Event) (s : State) : (s.record e).rpos = s.rpos := rfl
@[simp] theorem State.record_avail (e : Event) (s : State) : (s.record e).avail = s.avail := rfl
@[simp] theorem State.record_mag (e : Event) (s : State) : (s.record e).mag = s.mag := rfl
@[simp] theorem State.record_ph (e : Event) (s : State) : (s.record e).ph = s.ph := rfl
@[simp] theorem State.record_arg0 (e : Event) (s : State) : (s.record e).arg0 = s.arg0 := rfl
@[simp] theorem State.record_arg1 (e : Event) (s : State) : (s.record e).arg1 = s.arg1 := rfl
@[simp] theorem State.record_res0 (e : Event) (s : State) : (s.record e).res0 = s.res0 := rfl
@[simp] theorem State.record_res1 (e : Event) (s : State) : (s.record e).res1 = s.res1 := rfl
@[simp] theorem State.record_busy (e : Event) (s : State) : (s.record e).busy = s.busy := rfl
@[simp] theorem State.record_fault (e : Event) (s : State) : (s.record e).fault = s.fault := rfl
@[simp] theorem State.record_fcause (e : Event) (s : State) : (s.record e).fcause = s.fcause := rfl
@[simp] theorem State.record_sidx (e : Event) (s : State) : (s.record e).sidx = s.sidx := rfl
@[simp] theorem State.record_acqI (e : Event) (s : State) : (s.record e).acqI = s.acqI := rfl
@[simp] theorem State.record_acqQ (e : Event) (s : State) : (s.record e).acqQ = s.acqQ := rfl
@[simp] theorem State.record_held (e : Event) (s : State) : (s.record e).held = s.held := rfl
@[simp] theorem State.record_presentI (e : Event) (s : State) : (s.record e).presentI = s.presentI := rfl
@[simp] theorem State.record_presentQ (e : Event) (s : State) : (s.record e).presentQ = s.presentQ := rfl
@[simp] theorem State.record_blkI (e : Event) (s : State) : (s.record e).blkI = s.blkI := rfl
@[simp] theorem State.record_blkQ (e : Event) (s : State) : (s.record e).blkQ = s.blkQ := rfl
@[simp] theorem State.record_events (e : Event) (s : State) : (s.record e).events = s.events ++ [e] := rfl
@[simp] theorem State.record_published (e : Event) (s : State) : (s.record e).published = s.published := rfl
@[simp] theorem State.record_busData (e : Event) (s : State) : (s.record e).busData = s.busData := rfl
@[simp] theorem State.record_hostIn (e : Event) (s : State) : (s.record e).hostIn = s.hostIn := rfl
@[simp] theorem State.record_transIn (e : Event) (s : State) : (s.record e).transIn = s.transIn := rfl
@[simp] theorem State.record_turns (e : Event) (s : State) : (s.record e).turns = s.turns := rfl

@[simp] theorem State.publishI_par (s : State) : (s.publishI).par = s.par := rfl
@[simp] theorem State.publishI_mode (s : State) : (s.publishI).mode = s.mode := rfl
@[simp] theorem State.publishI_cfg (s : State) : (s.publishI).cfg = s.cfg := rfl
@[simp] theorem State.publishI_dlI (s : State) : (s.publishI).dlI = s.dlI := rfl
@[simp] theorem State.publishI_dlQ (s : State) : (s.publishI).dlQ = s.dlQ := rfl
@[simp] theorem State.publishI_rem (s : State) : (s.publishI).rem = s.rem := rfl
@[simp] theorem State.publishI_widx (s : State) : (s.publishI).widx = s.widx := rfl
@[simp] theorem State.publishI_rpos (s : State) : (s.publishI).rpos = s.rpos := rfl
@[simp] theorem State.publishI_avail (s : State) : (s.publishI).avail = s.avail := rfl
@[simp] theorem State.publishI_mag (s : State) : (s.publishI).mag = s.mag := rfl
@[simp] theorem State.publishI_ph (s : State) : (s.publishI).ph = s.ph := rfl
@[simp] theorem State.publishI_arg0 (s : State) : (s.publishI).arg0 = s.arg0 := rfl
@[simp] theorem State.publishI_arg1 (s : State) : (s.publishI).arg1 = s.arg1 := rfl
@[simp] theorem State.publishI_res0 (s : State) : (s.publishI).res0 = s.res0 := rfl
@[simp] theorem State.publishI_res1 (s : State) : (s.publishI).res1 = s.res1 := rfl
@[simp] theorem State.publishI_busy (s : State) : (s.publishI).busy = s.busy := rfl
@[simp] theorem State.publishI_fault (s : State) : (s.publishI).fault = s.fault := rfl
@[simp] theorem State.publishI_fcause (s : State) : (s.publishI).fcause = s.fcause := rfl
@[simp] theorem State.publishI_sidx (s : State) : (s.publishI).sidx = s.sidx := rfl
@[simp] theorem State.publishI_acqI (s : State) : (s.publishI).acqI = s.acqI := rfl
@[simp] theorem State.publishI_acqQ (s : State) : (s.publishI).acqQ = s.acqQ := rfl
@[simp] theorem State.publishI_held (s : State) : (s.publishI).held = s.held := rfl
@[simp] theorem State.publishI_presentI (s : State) : (s.publishI).presentI = s.presentI := rfl
@[simp] theorem State.publishI_presentQ (s : State) : (s.publishI).presentQ = s.presentQ := rfl
@[simp] theorem State.publishI_blkI (s : State) : (s.publishI).blkI = s.blkI := rfl
@[simp] theorem State.publishI_blkQ (s : State) : (s.publishI).blkQ = s.blkQ := rfl
@[simp] theorem State.publishI_events (s : State) : (s.publishI).events = s.events ++ [.pubI] := rfl
@[simp] theorem State.publishI_published (s : State) : (s.publishI).published = s.published ++ [s.blkI] := rfl
@[simp] theorem State.publishI_busData (s : State) : (s.publishI).busData = s.busData := rfl
@[simp] theorem State.publishI_hostIn (s : State) : (s.publishI).hostIn = s.hostIn := rfl
@[simp] theorem State.publishI_transIn (s : State) : (s.publishI).transIn = s.transIn := rfl
@[simp] theorem State.publishI_turns (s : State) : (s.publishI).turns = s.turns := rfl

@[simp] theorem State.setAcquired_i_par (b : Bool) (s : State) : (s.setAcquired .i b).par = s.par := rfl
@[simp] theorem State.setAcquired_i_mode (b : Bool) (s : State) : (s.setAcquired .i b).mode = s.mode := rfl
@[simp] theorem State.setAcquired_i_cfg (b : Bool) (s : State) : (s.setAcquired .i b).cfg = s.cfg := rfl
@[simp] theorem State.setAcquired_i_dlI (b : Bool) (s : State) : (s.setAcquired .i b).dlI = s.dlI := rfl
@[simp] theorem State.setAcquired_i_dlQ (b : Bool) (s : State) : (s.setAcquired .i b).dlQ = s.dlQ := rfl
@[simp] theorem State.setAcquired_i_rem (b : Bool) (s : State) : (s.setAcquired .i b).rem = s.rem := rfl
@[simp] theorem State.setAcquired_i_widx (b : Bool) (s : State) : (s.setAcquired .i b).widx = s.widx := rfl
@[simp] theorem State.setAcquired_i_rpos (b : Bool) (s : State) : (s.setAcquired .i b).rpos = s.rpos := rfl
@[simp] theorem State.setAcquired_i_avail (b : Bool) (s : State) : (s.setAcquired .i b).avail = s.avail := rfl
@[simp] theorem State.setAcquired_i_mag (b : Bool) (s : State) : (s.setAcquired .i b).mag = s.mag := rfl
@[simp] theorem State.setAcquired_i_ph (b : Bool) (s : State) : (s.setAcquired .i b).ph = s.ph := rfl
@[simp] theorem State.setAcquired_i_arg0 (b : Bool) (s : State) : (s.setAcquired .i b).arg0 = s.arg0 := rfl
@[simp] theorem State.setAcquired_i_arg1 (b : Bool) (s : State) : (s.setAcquired .i b).arg1 = s.arg1 := rfl
@[simp] theorem State.setAcquired_i_res0 (b : Bool) (s : State) : (s.setAcquired .i b).res0 = s.res0 := rfl
@[simp] theorem State.setAcquired_i_res1 (b : Bool) (s : State) : (s.setAcquired .i b).res1 = s.res1 := rfl
@[simp] theorem State.setAcquired_i_busy (b : Bool) (s : State) : (s.setAcquired .i b).busy = s.busy := rfl
@[simp] theorem State.setAcquired_i_fault (b : Bool) (s : State) : (s.setAcquired .i b).fault = s.fault := rfl
@[simp] theorem State.setAcquired_i_fcause (b : Bool) (s : State) : (s.setAcquired .i b).fcause = s.fcause := rfl
@[simp] theorem State.setAcquired_i_sidx (b : Bool) (s : State) : (s.setAcquired .i b).sidx = s.sidx := rfl
@[simp] theorem State.setAcquired_i_acqI (b : Bool) (s : State) : (s.setAcquired .i b).acqI = b := rfl
@[simp] theorem State.setAcquired_i_acqQ (b : Bool) (s : State) : (s.setAcquired .i b).acqQ = s.acqQ := rfl
@[simp] theorem State.setAcquired_i_held (b : Bool) (s : State) : (s.setAcquired .i b).held = s.held := rfl
@[simp] theorem State.setAcquired_i_presentI (b : Bool) (s : State) : (s.setAcquired .i b).presentI = s.presentI := rfl
@[simp] theorem State.setAcquired_i_presentQ (b : Bool) (s : State) : (s.setAcquired .i b).presentQ = s.presentQ := rfl
@[simp] theorem State.setAcquired_i_blkI (b : Bool) (s : State) : (s.setAcquired .i b).blkI = s.blkI := rfl
@[simp] theorem State.setAcquired_i_blkQ (b : Bool) (s : State) : (s.setAcquired .i b).blkQ = s.blkQ := rfl
@[simp] theorem State.setAcquired_i_events (b : Bool) (s : State) : (s.setAcquired .i b).events = s.events := rfl
@[simp] theorem State.setAcquired_i_published (b : Bool) (s : State) : (s.setAcquired .i b).published = s.published := rfl
@[simp] theorem State.setAcquired_i_busData (b : Bool) (s : State) : (s.setAcquired .i b).busData = s.busData := rfl
@[simp] theorem State.setAcquired_i_hostIn (b : Bool) (s : State) : (s.setAcquired .i b).hostIn = s.hostIn := rfl
@[simp] theorem State.setAcquired_i_transIn (b : Bool) (s : State) : (s.setAcquired .i b).transIn = s.transIn := rfl
@[simp] theorem State.setAcquired_i_turns (b : Bool) (s : State) : (s.setAcquired .i b).turns = s.turns := rfl

@[simp] theorem State.setAcquired_q_par (b : Bool) (s : State) : (s.setAcquired .q b).par = s.par := rfl
@[simp] theorem State.setAcquired_q_mode (b : Bool) (s : State) : (s.setAcquired .q b).mode = s.mode := rfl
@[simp] theorem State.setAcquired_q_cfg (b : Bool) (s : State) : (s.setAcquired .q b).cfg = s.cfg := rfl
@[simp] theorem State.setAcquired_q_dlI (b : Bool) (s : State) : (s.setAcquired .q b).dlI = s.dlI := rfl
@[simp] theorem State.setAcquired_q_dlQ (b : Bool) (s : State) : (s.setAcquired .q b).dlQ = s.dlQ := rfl
@[simp] theorem State.setAcquired_q_rem (b : Bool) (s : State) : (s.setAcquired .q b).rem = s.rem := rfl
@[simp] theorem State.setAcquired_q_widx (b : Bool) (s : State) : (s.setAcquired .q b).widx = s.widx := rfl
@[simp] theorem State.setAcquired_q_rpos (b : Bool) (s : State) : (s.setAcquired .q b).rpos = s.rpos := rfl
@[simp] theorem State.setAcquired_q_avail (b : Bool) (s : State) : (s.setAcquired .q b).avail = s.avail := rfl
@[simp] theorem State.setAcquired_q_mag (b : Bool) (s : State) : (s.setAcquired .q b).mag = s.mag := rfl
@[simp] theorem State.setAcquired_q_ph (b : Bool) (s : State) : (s.setAcquired .q b).ph = s.ph := rfl
@[simp] theorem State.setAcquired_q_arg0 (b : Bool) (s : State) : (s.setAcquired .q b).arg0 = s.arg0 := rfl
@[simp] theorem State.setAcquired_q_arg1 (b : Bool) (s : State) : (s.setAcquired .q b).arg1 = s.arg1 := rfl
@[simp] theorem State.setAcquired_q_res0 (b : Bool) (s : State) : (s.setAcquired .q b).res0 = s.res0 := rfl
@[simp] theorem State.setAcquired_q_res1 (b : Bool) (s : State) : (s.setAcquired .q b).res1 = s.res1 := rfl
@[simp] theorem State.setAcquired_q_busy (b : Bool) (s : State) : (s.setAcquired .q b).busy = s.busy := rfl
@[simp] theorem State.setAcquired_q_fault (b : Bool) (s : State) : (s.setAcquired .q b).fault = s.fault := rfl
@[simp] theorem State.setAcquired_q_fcause (b : Bool) (s : State) : (s.setAcquired .q b).fcause = s.fcause := rfl
@[simp] theorem State.setAcquired_q_sidx (b : Bool) (s : State) : (s.setAcquired .q b).sidx = s.sidx := rfl
@[simp] theorem State.setAcquired_q_acqI (b : Bool) (s : State) : (s.setAcquired .q b).acqI = s.acqI := rfl
@[simp] theorem State.setAcquired_q_acqQ (b : Bool) (s : State) : (s.setAcquired .q b).acqQ = b := rfl
@[simp] theorem State.setAcquired_q_held (b : Bool) (s : State) : (s.setAcquired .q b).held = s.held := rfl
@[simp] theorem State.setAcquired_q_presentI (b : Bool) (s : State) : (s.setAcquired .q b).presentI = s.presentI := rfl
@[simp] theorem State.setAcquired_q_presentQ (b : Bool) (s : State) : (s.setAcquired .q b).presentQ = s.presentQ := rfl
@[simp] theorem State.setAcquired_q_blkI (b : Bool) (s : State) : (s.setAcquired .q b).blkI = s.blkI := rfl
@[simp] theorem State.setAcquired_q_blkQ (b : Bool) (s : State) : (s.setAcquired .q b).blkQ = s.blkQ := rfl
@[simp] theorem State.setAcquired_q_events (b : Bool) (s : State) : (s.setAcquired .q b).events = s.events := rfl
@[simp] theorem State.setAcquired_q_published (b : Bool) (s : State) : (s.setAcquired .q b).published = s.published := rfl
@[simp] theorem State.setAcquired_q_busData (b : Bool) (s : State) : (s.setAcquired .q b).busData = s.busData := rfl
@[simp] theorem State.setAcquired_q_hostIn (b : Bool) (s : State) : (s.setAcquired .q b).hostIn = s.hostIn := rfl
@[simp] theorem State.setAcquired_q_transIn (b : Bool) (s : State) : (s.setAcquired .q b).transIn = s.transIn := rfl
@[simp] theorem State.setAcquired_q_turns (b : Bool) (s : State) : (s.setAcquired .q b).turns = s.turns := rfl

end Sys2Proof.Machine
end

