-- ==== Sys2Proof/Laws/Ops.lean ====
section
/-! SUPPORT. For each shared operation, one lemma that says once everything it can do. -/

namespace Sys2Proof.Machine

theorem heldWhileBusy_idle {s : State} (h : s.busy = false) (i : Instr) (body : State) :
    s.heldWhileBusy i body = body := by simp [State.heldWhileBusy, h]

theorem heldWhileBusy_busy {s : State} (h : s.busy = true) (i : Instr) (body : State) :
    s.heldWhileBusy i body = { s with held := some i } := by simp [State.heldWhileBusy, h]

theorem acquire_i_eq (s : State) : s.acquire .i = { s with events := s.events ++ [.acq .i], acqI := true } := rfl

theorem acquire_q_eq (s : State) : s.acquire .q = { s with events := s.events ++ [.acq .q], acqQ := true } := rfl

theorem release_i_eq (s : State) : s.release .i = { s with events := s.events ++ [.rel .i], acqI := false } := rfl

theorem release_q_eq (s : State) : s.release .q = { s with events := s.events ++ [.rel .q], acqQ := false } := rfl

/-- The events of acquiring and releasing a rail that may be present (R155). -/
def drainEvents (present : Bool) (r : Rail) : List Event := if present then [.acq r, .rel r] else []

/-- A drain changes the event trace and nothing else (R155). -/
theorem drain_eq (s : State) :
    drain s = { s with events := s.events ++ drainEvents s.presentI .i ++ drainEvents s.presentQ .q } := by
  simp only [drain, drainRail, drainEvents, State.present]
  obtain ⟨_, _, _, _, _, _, _, _, _, _, _, _, _, _, _, _, _, _, _, _, _, _, pI, pQ⟩ := s
  cases pI <;> cases pQ <;> simp [State.record]

/-- The prologue (R156). -/
theorem prologue_eq (s : State) :
    prologue s = { s with
      busy := true
      sidx := 0
      acqI := true
      acqQ := s.acqQ || s.presentQ
      events := s.events ++ (.acq .i :: if s.presentQ then [.acq .q] else []) } := by
  simp only [prologue, acquire_i_eq, acquire_q_eq]
  cases h : s.presentQ <;> simp

/-- The start of a block process (R148). -/
theorem start_eq (s : State) : start s = if drains s then drain s else prologue s := rfl

/-- When a PROCESS goes on to process samples (R148). -/
theorem drains_eq_false {s : State} : drains s = false ↔
    s.mode ≠ .idle ∧ s.presentI = true ∧ (needsQ s.mode s.cfg.rails = true → s.presentQ = true) := by
  simp only [drains]
  cases s.mode <;> cases s.presentI <;> cases s.presentQ <;> cases s.cfg.rails <;> simp [needsI, needsQ]

/-- The epilogue (R161). -/
theorem epilogue_eq (s : State) :
    epilogue s = { s with
      rpos := if s.mode = .report then s.widx else s.rpos
      published := if s.mode = .report then s.published else s.published ++ [s.blkI]
      events := s.events ++ (if s.mode = .report then [] else [.pubI]) ++
        (.rel .i :: if s.acqQ then [.rel .q] else [])
      acqI := false
      acqQ := false
      busy := false
      sidx := 0 } := by
  simp only [epilogue, epilogueRelease, epiloguePublish, release_i_eq, release_q_eq]
  by_cases hm : s.mode = .report <;> cases hq : s.acqQ <;> simp [hm, hq, publishPosition, State.publishI]

/-- A block read answers exactly where R44 makes it legal. -/
theorem blkRead_eq_some {r : Rail} {n : Nat} {s : State} {x : Sample} :
    blkRead r n s = some x ↔
      s.acquired r = true ∧ n < s.par.blockLen ∧ x = Memory.read (s.block r) n := by
  simp only [blkRead]
  split_ifs with h
  · simp only [Option.some.injEq, h, true_and]
    exact eq_comm
  · simp only [false_iff]
    tauto

/-- A block write answers exactly where R44 makes it legal, and stores one sample. -/
theorem blkWriteI_eq_some {n : Nat} {v : Int} {s t : State} :
    blkWriteI n v s = some t ↔
      s.acqI = true ∧ publishes s.mode = true ∧ n < s.par.blockLen ∧
        t = { s with blkI := Memory.write s.blkI n (BitVec.ofInt 16 v) } := by
  simp only [blkWriteI]
  split_ifs with h
  · simp only [Option.some.injEq, h, true_and]
    exact eq_comm
  · simp only [false_iff]
    tauto

/-- The delay-line shift of a Hilbert step (R93). -/
theorem hilbertShift_eq (i q : Sample) (s : State) :
    hilbertShift i q s = { s with
      dlI := shiftIn s.dlI i
      dlQ := if s.cfg.rails then s.dlQ else shiftIn s.dlQ q } := by
  simp only [hilbertShift]
  split <;> simp

/-- A decimator step that completes no run counts the remainder and does nothing else (R121). -/
theorem decimStep_count {s : State} (h : completesRun s = false) (i q : Sample) :
    decimStep i q s = { s with rem := s.rem + 1 } := by simp [decimStep, remAfter, h]

/-- A decimator step that completes a run writes one pair at WIDX and advances it (R121). -/
theorem decimStep_write {s : State} (h : completesRun s = true) (i q : Sample) :
    decimStep i q s = { s with
      rem := 0
      mag := Memory.write s.mag s.widx (BitVec.ofNat 15 (magBy s.cfg.magsel i q))
      ph := Memory.write s.ph s.widx (BitVec.ofInt 16 (phaseOf s.par q i))
      widx := (s.widx + 1) % s.par.blockLen
      avail := s.avail || decide (s.par.blockLen / 2 ≤ (s.widx + 1) % s.par.blockLen) } := by
  simp [decimStep, remAfter, h, writePair, magSel, availAfter]

/-- After a decimation step REM is below RATIO, whatever it was (R22, R121). -/
theorem remAfter_lt {s : State} (h : s.cfg.ratio ≠ 0) : (remAfter s).toNat < s.cfg.ratio.toNat := by
  have hr := s.cfg.ratio.isLt
  have hpos : s.cfg.ratio.toNat ≠ 0 := fun hz => h (BitVec.eq_of_toNat_eq (by simpa using hz))
  simp only [remAfter, completesRun, decide_eq_true_eq]
  split_ifs with hc
  · simpa using Nat.pos_of_ne_zero hpos
  · rw [BitVec.toNat_add]
    have h1 : (1 : BitVec 4).toNat = 1 := rfl
    omega

/-- A report read raises INDEX_RANGE or writes RES0 (R125, R126). -/
theorem reportRead_eq (k : BitVec 16) (v : BitVec 32) (s : State) :
    reportRead k v s = if s.par.blockLen ≤ k.toNat then s.raiseFault .indexRange else s.setRes0 v := rfl

/-- The ENVELOPE step, where both reads are legal and the mode is ENVELOPE (R157). -/
theorem envStep_eq {s : State} (hm : s.mode = .envelope) (hI : s.acqI = true) (hQ : s.acqQ = true)
    (hn : s.sidx < s.par.blockLen) :
    envStep s = .next { s with
      rem := envRem s
      sidx := s.sidx + 1
      blkI := match envOutput (Memory.read s.blkI s.sidx) (Memory.read s.blkQ s.sidx) s with
        | none => s.blkI
        | some v => Memory.write s.blkI s.sidx (BitVec.ofInt 16 v) } := by
  have h1 : blkRead .i s.sidx s = some (Memory.read s.blkI s.sidx) := blkRead_eq_some.mpr ⟨hI, hn, rfl⟩
  have h2 : blkRead .q s.sidx s = some (Memory.read s.blkQ s.sidx) := blkRead_eq_some.mpr ⟨hQ, hn, rfl⟩
  simp only [envStep, h1, h2]
  cases envOutput (Memory.read s.blkI s.sidx) (Memory.read s.blkQ s.sidx) s with
  | none => rfl
  | some v =>
    dsimp only
    rw [(blkWriteI_eq_some (s := { s with rem := envRem s })).mpr ⟨hI, by rw [hm]; rfl, hn, rfl⟩]
    rfl

/-- The state a SSB step leaves, for the sample pair it reads (R158). -/
def ssbAfter (sb : Sideband) (i q : Sample) (s : State) : State :=
  let t := hilbertShift i q s
  { t with
    blkI := Memory.write s.blkI s.sidx (BitVec.ofInt 16 (combine (delayedI t) (filteredQ t) sb))
    sidx := s.sidx + 1 }

/-- The SSB step, where its reads are legal and the mode is an SSB mode (R158). -/
theorem ssbStep_eq {s : State} (sb : Sideband) (hm : publishes s.mode = true) (hI : s.acqI = true)
    (hQ : s.cfg.rails = false → s.acqQ = true) (hn : s.sidx < s.par.blockLen) :
    ssbStep sb s = .next (ssbAfter sb (Memory.read s.blkI s.sidx)
      (if s.cfg.rails then 0 else Memory.read s.blkQ s.sidx) s) := by
  have h1 : blkRead .i s.sidx s = some (Memory.read s.blkI s.sidx) := blkRead_eq_some.mpr ⟨hI, hn, rfl⟩
  have h2 : ssbQ s = some (if s.cfg.rails then 0 else Memory.read s.blkQ s.sidx) := by
    cases hr : s.cfg.rails with
    | true => simp [ssbQ, hr]
    | false =>
      simp only [ssbQ, hr, Bool.false_eq_true, if_false]
      exact blkRead_eq_some.mpr ⟨hQ hr, hn, rfl⟩
  have h3 : ∀ i q v, blkWriteI s.sidx v (hilbertShift i q s) = some { hilbertShift i q s with
      blkI := Memory.write (hilbertShift i q s).blkI s.sidx (BitVec.ofInt 16 v) } := by
    intro i q v
    rw [blkWriteI_eq_some, hilbertShift_eq]
    exact ⟨hI, hm, hn, rfl⟩
  simp only [ssbStep, h1, h2, h3]
  simp only [ssbAfter, advance, hilbertShift_eq]

/-- The REPORT step, where both reads are legal (R159). -/
theorem repStep_eq {s : State} (hI : s.acqI = true) (hQ : s.acqQ = true) (hn : s.sidx < s.par.blockLen) :
    repStep s = .next { decimStep (Memory.read s.blkI s.sidx) (Memory.read s.blkQ s.sidx) s with
      sidx := s.sidx + 1 } := by
  have h1 : blkRead .i s.sidx s = some (Memory.read s.blkI s.sidx) := blkRead_eq_some.mpr ⟨hI, hn, rfl⟩
  have h2 : blkRead .q s.sidx s = some (Memory.read s.blkQ s.sidx) := blkRead_eq_some.mpr ⟨hQ, hn, rfl⟩
  simp only [repStep, h1, h2, advance]
  cases h : completesRun s
  · rw [decimStep_count h]
  · rw [decimStep_write h]

/-- No command stops the machine: every one answers a next state. -/
theorem exec_next (i : Instr) (s : State) : ∃ t, exec i s = .next t := by
  cases i <;> exact ⟨_, rfl⟩

end Sys2Proof.Machine
end

