-- ==== Sys2Proof/Laws/Step.lean ====
section
/-! SUPPORT. What a step can do, said once: whose step it is, and the cases of each agent's step. -/

namespace Sys2Proof.Machine

/-- A step is the step of the agent whose turn it is, with the turn used up; with nobody to move nothing changes. -/
theorem step_cases {s t : State} (h : step s = .next t) :
    (∃ a, nextTurn s = some a ∧ agentStep a { s with turns := s.turns.tail } = .next t) ∨
      (nextTurn s = none ∧ t = s) := by
  simp only [step, machineStep] at h
  split at h
  · exact .inl ⟨_, ‹_›, h⟩
  · exact .inr ⟨‹_›, by simpa using h.symm⟩

theorem step_of_turn {s : State} {a : Turn} (h : nextTurn s = some a) :
    step s = agentStep a { s with turns := s.turns.tail } := by
  simp [step, machineStep, h]

theorem nextTurn_cons {s : State} {a : Turn} {ts : List Turn} (h : s.turns = a :: ts) : nextTurn s = some a := by
  simp [nextTurn, h]

/-- A reset is decided by the head of `turns` alone: the fallback order never chooses it. -/
theorem nextTurn_reset_iff {s : State} {r : Option (List TransportAct)} :
    nextTurn s = some (.reset r) ↔ s.turns.head? = some (.reset r) := by
  cases h : s.turns with
  | nil =>
    simp only [nextTurn, h]
    split_ifs <;> simp
  | cons a ts => simp [nextTurn, h]

/-- Issuing a word records the decoder's cause, or executes the command it decodes to (R72). -/
theorem issue_cases {w : Word} {s t : State} (h : issue w s = .next t) :
    (∃ c, decode w = .error c ∧ t = s.raiseFault c) ∨ (∃ i, decode w = .ok i ∧ exec i s = .next t) := by
  simp only [issue] at h
  split at h
  · exact .inl ⟨_, ‹_›, by simpa using h.symm⟩
  · exact .inr ⟨_, ‹_›, h⟩

/-- The window holds the 32 bytes from its base on (R40). -/
theorem windowOffset_inside (s : State) {k : Nat} (h : k < 32) : windowOffset s (s.par.hostBase + k) = some k := by
  simp [windowOffset, Config.windowBytes, h]

theorem windowOffset_outside {s : State} {addr : Nat} (h : ¬(s.par.hostBase ≤ addr ∧ addr < s.par.hostBase + 32)) :
    windowOffset s addr = none := if_neg h

/-- An offset that holds no readable register, or a size that is no whole word, is an illegal read (R41). -/
theorem portRead_eq_none {s : State} {k size : Nat}
    (h : ¬(size = 4 ∧ (k = 0x04 ∨ k = 0x08 ∨ k = 0x0C ∨ k = 0x10 ∨ k = 0x14))) : portRead s k size = none := by
  simp only [portRead, PortReg.at?]
  split_ifs with hs
  · rfl
  · split <;> rename_i heq <;> revert heq <;> split <;> simp_all

/-- What a host write does (R41): nothing outside the window, an argument, BAD_ACCESS, or the issue of a word. -/
theorem hostWrite_cases {addr size : Nat} {data : Word} {s t : State} (h : hostWrite addr size data s = .next t) :
    t = s ∨ t = s.raiseFault .badAccess ∨
      (addr = s.par.hostBase + 4 ∧ size = 4 ∧ t = { s with arg0 := data }) ∨
      (addr = s.par.hostBase + 8 ∧ size = 4 ∧ t = { s with arg1 := data }) ∨
      (addr = s.par.hostBase ∧ size = 4 ∧ issue data s = .next t) := by
  have at? : ∀ {k r}, PortReg.at? k = some r →
      (r = .cmd → k = 0) ∧ (r = .arg0 → k = 4) ∧ (r = .arg1 → k = 8) := by
    intro k r hk
    revert hk
    simp only [PortReg.at?]
    split <;> rintro ⟨⟩ <;> simp
  simp only [hostWrite, windowOffset] at h
  split at h
  · exact .inl (by simpa using h.symm)
  · rename_i off hoff
    split_ifs at hoff with hw
    obtain rfl := Option.some.inj hoff
    split_ifs at h with hs
    · exact .inr (.inl (by simpa using h.symm))
    · split at h <;> rename_i hreg
      · have := (at? hreg).1 rfl
        exact .inr (.inr (.inr (.inr ⟨by omega, by omega, h⟩)))
      · have := (at? hreg).2.1 rfl
        exact .inr (.inr (.inl ⟨by omega, by omega, by simpa using h.symm⟩))
      · have := (at? hreg).2.2 rfl
        exact .inr (.inr (.inr (.inl ⟨by omega, by omega, by simpa using h.symm⟩)))
      all_goals exact .inr (.inl (by simpa using h.symm))

/-- What a host read does (R41): it returns data, or raises BAD_ACCESS and returns 0, or does not reach the core. -/
theorem hostRead_cases (addr size : Nat) (s : State) :
    hostRead addr size s = s ∨ (∃ v, hostRead addr size s = { s with busData := v }) ∨
      hostRead addr size s = { s.raiseFault .badAccess with busData := 0 } := by
  simp only [hostRead]
  split
  · exact .inl rfl
  · split
    · exact .inr (.inl ⟨_, rfl⟩)
    · exact .inr (.inr rfl)

/-- What a round of `waitidle` does: it reads STATUS and leaves the loop when BUSY is 0. -/
theorem hostWait_eq (rest : List HostAct) (s : State) :
    hostWait rest s = { s with
      busData := statusWord s
      hostIn := if s.busy then s.hostIn else rest } := by
  have hr : hostRead (s.par.hostBase + 0x14) 4 s = { s with busData := statusWord s } := by
    simp [hostRead, windowOffset, Config.windowBytes, portRead, PortReg.at?]
  have hb : (statusWord s).getLsbD 0 = s.busy := by
    rw [statusWord, BitVec.getLsbD_append, if_pos (by decide)]
    cases s.busy <;> rfl
  simp only [hostWait, hr, hb]
  cases s.busy <;> rfl

/-- What the host's step can do. -/
theorem hostStep_cases {s t : State} (h : hostStep s = .next t) :
    (∃ i, s.held = some i ∧ s.busy = true ∧ t = s) ∨
    (∃ i, s.held = some i ∧ s.busy = false ∧ exec i { s with held := none } = .next t) ∨
    (s.held = none ∧ s.hostIn = [] ∧ t = s) ∨
    (∃ addr size rest, s.held = none ∧ s.hostIn = .read addr size :: rest ∧
      t = hostRead addr size { s with hostIn := rest }) ∨
    (∃ addr size data rest, s.held = none ∧ s.hostIn = .write addr size data :: rest ∧
      hostWrite addr size data { s with hostIn := rest } = .next t) ∨
    (∃ rest, s.held = none ∧ s.hostIn = .waitidle :: rest ∧ t = hostWait rest s) := by
  simp only [hostStep] at h
  split at h
  · rename_i i hi
    split_ifs at h with hb
    · exact .inl ⟨i, hi, hb, by simpa using h.symm⟩
    · exact .inr (.inl ⟨i, hi, by simpa using hb, h⟩)
  · rename_i hn
    split at h
    · exact .inr (.inr (.inl ⟨hn, ‹_›, by simpa using h.symm⟩))
    · exact .inr (.inr (.inr (.inl ⟨_, _, _, hn, ‹_›, by simpa using h.symm⟩)))
    · exact .inr (.inr (.inr (.inr (.inl ⟨_, _, _, _, hn, ‹_›, h⟩))))
    · exact .inr (.inr (.inr (.inr (.inr ⟨_, hn, ‹_›, by simpa using h.symm⟩))))

/-- A TICK issues PROCESS (R60). -/
theorem issue_tick (s : State) : issue tickWord s = exec .process s := rfl

/-- What the transport's step can do. -/
theorem transportStep_cases {s t : State} (h : transportStep s = .next t) :
    (s.transIn = [] ∧ t = s) ∨
    (∃ rest, s.transIn = .tick :: rest ∧ exec .process { s with transIn := rest } = .next t) ∨
    (∃ r samples rest, s.transIn = .offer r samples :: rest ∧ s.busy = false ∧ samples.length = s.par.blockLen ∧
      t = State.offer r samples { s with transIn := rest }) ∨
    (∃ r rest, s.transIn = .withdraw r :: rest ∧ s.busy = false ∧ t = State.withdraw r { s with transIn := rest }) := by
  simp only [transportStep] at h
  split at h
  · exact .inl ⟨‹_›, by simpa using h.symm⟩
  · rw [issue_tick] at h
    exact .inr (.inl ⟨_, ‹_›, h⟩)
  · split_ifs at h with hb hl
    exact .inr (.inr (.inl ⟨_, _, _, ‹_›, by simpa using hb, not_not.mp hl, by simpa using h.symm⟩))
  · split_ifs at h with hb
    exact .inr (.inr (.inr ⟨_, _, ‹_›, by simpa using hb, by simpa using h.symm⟩))

theorem resetsNext_iff {s : State} : resetsNext s = true ↔ ∃ r, nextTurn s = some (.reset r) := by
  simp only [resetsNext]
  split <;> simp_all

/-- What the reset can do (R190, R191). -/
theorem platformReset_cases {r : Option (List TransportAct)} {s t : State} (h : platformReset r s = .next t) :
    (∃ acts, r = some acts ∧ t = s.resetCore.restartTransport acts) ∨ (r = none ∧ s.busy = false ∧ t = s.resetCore) := by
  simp only [platformReset] at h
  split at h
  · exact .inl ⟨_, rfl, by simpa using h.symm⟩
  · split_ifs at h with hb
    exact .inr ⟨rfl, by simpa using hb, by simpa using h.symm⟩

/-- What the pipeline's step can do. -/
theorem pipelineStep_cases {s t : State} (h : pipelineStep s = .next t) :
    (s.busy = false ∧ t = s) ∨
    (s.busy = true ∧ s.sidx < s.par.blockLen ∧ sampleStep s = .next t) ∨
    (s.busy = true ∧ s.par.blockLen ≤ s.sidx ∧ t = epilogue s) := by
  simp only [pipelineStep] at h
  split_ifs at h with hb hn
  · exact .inl ⟨by simpa using hb, by simpa using h.symm⟩
  · exact .inr (.inl ⟨by simpa using hb, hn, h⟩)
  · exact .inr (.inr ⟨by simpa using hb, by omega, by simpa using h.symm⟩)

/-- What a sample step can do: one of the three steps of R157 to R159, with legal element accesses. -/
theorem sampleStep_cases {s t : State} (h : sampleStep s = .next t) :
    s.acqI = true ∧ s.sidx < s.par.blockLen ∧
    ((s.mode = .envelope ∧ s.acqQ = true ∧ envStep s = .next t) ∨
      (∃ sb, (s.mode = .ssbUsb ∧ sb = .usb ∨ s.mode = .ssbLsb ∧ sb = .lsb) ∧ (s.cfg.rails = false → s.acqQ = true) ∧
        t = ssbAfter sb (Memory.read s.blkI s.sidx) (if s.cfg.rails then 0 else Memory.read s.blkQ s.sidx) s) ∨
      (s.mode = .report ∧ s.acqQ = true ∧
        t = { decimStep (Memory.read s.blkI s.sidx) (Memory.read s.blkQ s.sidx) s with sidx := s.sidx + 1 })) := by
  have hi : ∀ x, blkRead .i s.sidx s = some x → s.acqI = true ∧ s.sidx < s.par.blockLen := fun x hx =>
    ⟨(blkRead_eq_some.mp hx).1, (blkRead_eq_some.mp hx).2.1⟩
  have hq : ∀ x, blkRead .q s.sidx s = some x → s.acqQ = true := fun x hx => (blkRead_eq_some.mp hx).1
  have ssb : ∀ sb, publishes s.mode = true → ssbStep sb s = .next t → s.acqI = true ∧ s.sidx < s.par.blockLen ∧
      (s.cfg.rails = false → s.acqQ = true) ∧
      t = ssbAfter sb (Memory.read s.blkI s.sidx) (if s.cfg.rails then 0 else Memory.read s.blkQ s.sidx) s := by
    intro sb hm hs
    have hs' := hs
    simp only [ssbStep] at hs'
    split at hs'
    · rename_i x y hx hy
      have hq' : s.cfg.rails = false → s.acqQ = true := by
        intro hr
        simp only [ssbQ, hr, Bool.false_eq_true, if_false] at hy
        exact hq _ hy
      have hx' := hi _ hx
      rw [ssbStep_eq sb hm hx'.1 hq' hx'.2] at hs
      exact ⟨hx'.1, hx'.2, hq', by simpa using hs.symm⟩
    · simp at hs'
  simp only [sampleStep] at h
  split at h <;> rename_i hm
  · simp at h
  · have h' := h
    simp only [envStep] at h'
    split at h'
    · rename_i x y hx hy
      exact ⟨(hi _ hx).1, (hi _ hx).2, .inl ⟨hm, hq _ hy, h⟩⟩
    · simp at h'
  · obtain ⟨h1, h2, h3, h4⟩ := ssb _ (by rw [hm]; rfl) h
    exact ⟨h1, h2, .inr (.inl ⟨_, .inl ⟨hm, rfl⟩, h3, h4⟩)⟩
  · obtain ⟨h1, h2, h3, h4⟩ := ssb _ (by rw [hm]; rfl) h
    exact ⟨h1, h2, .inr (.inl ⟨_, .inr ⟨hm, rfl⟩, h3, h4⟩)⟩
  · have h' := h
    simp only [repStep] at h'
    split at h'
    · rename_i x y hx hy
      rw [repStep_eq (hi _ hx).1 (hq _ hy) (hi _ hx).2] at h
      exact ⟨(hi _ hx).1, (hi _ hx).2, .inr (.inr ⟨hm, hq _ hy, by simpa using h.symm⟩)⟩
    · simp at h'

end Sys2Proof.Machine
end

