-- ==== Sys2Proof/Laws/Effect.lean ====
section
/-! SUPPORT. Everything a step can do, as one predicate with one case for each kind of effect: a claim about every step is proved
by cases on it, without unfolding the agents. -/

namespace Sys2Proof.Machine

/-- `StepEffect s t`: `t` is a state that a step from `s` can leave, by the kind of the step. Only the pipeline's sample step and a
command are left to be looked at further (`sampleStep_cases`, and `exec` of the command). -/
inductive StepEffect (s : State) : State → Prop
  /-- The agent whose turn it is has nothing it can do. -/
  | idle : StepEffect s { s with turns := s.turns.tail }
  /-- The reset; the transport restarts with the core. -/
  | reset (acts : List TransportAct) (hreset : resetsNext s = true) :
      StepEffect s (State.restartTransport acts (State.resetCore { s with turns := s.turns.tail }))
  /-- The reset between block processes; the transport goes on. -/
  | resetAlone (hreset : resetsNext s = true) (hbusy : s.busy = false) :
      StepEffect s (State.resetCore { s with turns := s.turns.tail })
  /-- A command executes; what the agents have yet to do and the hold are updated first. -/
  | command (i : Instr) (hi : List HostAct) (ti : List TransportAct) (hd : Option Instr) (t : State)
      (hcommand : commandOf s = some i) (hheld : hd = none ∨ hd = s.held)
      (hexec : exec i { s with turns := s.turns.tail, hostIn := hi, transIn := ti, held := hd } = .next t) : StepEffect s t
  /-- The host's word or access is illegal. -/
  | hostFault (hi : List HostAct) (bd : Word) (c : Cause) (hturn : nextTurn s = some .host) (hc : c ≠ .none) :
      StepEffect s (State.raiseFault c { s with turns := s.turns.tail, hostIn := hi, busData := bd })
  | hostData (hi : List HostAct) (bd : Word) (hturn : nextTurn s = some .host) :
      StepEffect s { s with turns := s.turns.tail, hostIn := hi, busData := bd }
  | hostArg0 (hi : List HostAct) (v : Word) (hturn : nextTurn s = some .host)
      (hhead : s.hostIn.head? = some (.write (s.par.hostBase + 4) 4 v)) :
      StepEffect s { s with turns := s.turns.tail, hostIn := hi, arg0 := v }
  | hostArg1 (hi : List HostAct) (v : Word) (hturn : nextTurn s = some .host)
      (hhead : s.hostIn.head? = some (.write (s.par.hostBase + 8) 4 v)) :
      StepEffect s { s with turns := s.turns.tail, hostIn := hi, arg1 := v }
  | offer (r : Rail) (samples : List Sample) (ti : List TransportAct) (hturn : nextTurn s = some .transport)
      (hbusy : s.busy = false) (hlength : samples.length = s.par.blockLen) :
      StepEffect s (State.offer r samples { s with turns := s.turns.tail, transIn := ti })
  | withdraw (r : Rail) (ti : List TransportAct) (hturn : nextTurn s = some .transport) (hbusy : s.busy = false) :
      StepEffect s (State.withdraw r { s with turns := s.turns.tail, transIn := ti })
  | sample (t : State) (hturn : nextTurn s = some .pipeline) (hbusy : s.busy = true) (hn : s.sidx < s.par.blockLen)
      (hstep : sampleStep { s with turns := s.turns.tail } = .next t) : StepEffect s t
  | epilogue (hturn : nextTurn s = some .pipeline) (hbusy : s.busy = true) (hn : s.par.blockLen ≤ s.sidx) :
      StepEffect s (Machine.epilogue { s with turns := s.turns.tail })

/-- A step whose command is `i` is `exec i`, in the state where the turn, the agent's action and the hold are used up. -/
theorem step_of_command {s : State} {i : Instr} (h : commandOf s = some i) :
    ∃ (hi : List HostAct) (ti : List TransportAct) (hd : Option Instr), (hd = none ∨ hd = s.held) ∧
      step s = exec i { s with turns := s.turns.tail, hostIn := hi, transIn := ti, held := hd } := by
  simp only [commandOf] at h
  split at h
  · rename_i hturn
    split at h
    · rename_i j hheld
      split_ifs at h with hb
      obtain rfl := Option.some.inj h
      refine ⟨s.hostIn, s.transIn, none, .inl rfl, ?_⟩
      simp [step_of_turn hturn, agentStep, hostStep, hheld, hb]
    · rename_i hheld
      split at h
      · rename_i addr size w rest hin
        split_ifs at h with haddr
        obtain ⟨rfl, rfl⟩ := haddr
        cases hd : decode w with
        | error c => simp [hd, Except.toOption] at h
        | ok j =>
          obtain rfl : j = i := by simpa [hd, Except.toOption] using h
          refine ⟨rest, s.transIn, s.held, .inr rfl, ?_⟩
          simp [step_of_turn hturn, agentStep, hostStep, hheld, hin, hostWrite, windowOffset, Config.windowBytes, PortReg.at?,
            issue, hd]
      · simp at h
  · rename_i hturn
    split_ifs at h with hin
    obtain rfl := Option.some.inj h
    obtain ⟨rest, hin⟩ : ∃ rest, s.transIn = .tick :: rest := List.head?_eq_some_iff.mp hin
    refine ⟨s.hostIn, rest, s.held, .inr rfl, ?_⟩
    simp [step_of_turn hturn, agentStep, transportStep, hin, issue_tick]
  · simp at h

/-- A command is executed on the host's or the transport's turn. -/
theorem commandOf_turn {s : State} {i : Instr} (h : commandOf s = some i) :
    nextTurn s = some .host ∨ nextTurn s = some .transport := by
  simp only [commandOf] at h
  split at h <;> simp_all

/-- A step that answers a next state has one of these effects. -/
theorem step_effect {s t : State} (h : step s = .next t) : StepEffect s t := by
  rcases step_cases h with ⟨a, ha, h⟩ | ⟨hn, hts⟩
  · cases a
    case host =>
      simp only [agentStep] at h
      rcases hostStep_cases h with ⟨i, hi, hb, rfl⟩ | ⟨i, hi, hb, h⟩ | ⟨hh, hl, rfl⟩ | ⟨addr, size, rest, hh, hl, rfl⟩ |
        ⟨addr, size, data, rest, hh, hl, h⟩ | ⟨rest, hh, hl, rfl⟩
      · exact .idle
      · exact .command i s.hostIn s.transIn none t (by simp_all [commandOf]) (.inl rfl) h
      · exact .idle
      · rcases hostRead_cases addr size { s with turns := s.turns.tail, hostIn := rest } with h | ⟨v, h⟩ | h
        · rw [h]; exact .hostData rest s.busData ha
        · rw [h]; exact .hostData rest v ha
        · rw [h]; exact .hostFault rest 0 .badAccess ha (by decide)
      · dsimp only at hh hl
        have hw := hostWrite_cases (s := { s with turns := s.turns.tail, hostIn := rest }) h
        rcases hw with rfl | rfl | ⟨hx, hy, rfl⟩ | ⟨hx, hy, rfl⟩ | ⟨hx, hy, h⟩
        · exact .hostData rest s.busData ha
        · exact .hostFault rest s.busData .badAccess ha (by decide)
        · exact .hostArg0 rest data ha (by rw [hl, hx, hy]; rfl)
        · exact .hostArg1 rest data ha (by rw [hl, hx, hy]; rfl)
        · rcases issue_cases h with ⟨c, hc, rfl⟩ | ⟨i, hi, h⟩
          · exact .hostFault rest s.busData c ha (decode_error_ne_none hc)
          · exact .command i rest s.transIn s.held t (by simp [commandOf, ha, hh, hl, hx, hy, hi, Except.toOption]) (.inr rfl) h
      · rw [hostWait_eq]
        exact .hostData _ _ ha
    case transport =>
      simp only [agentStep] at h
      rcases transportStep_cases h with ⟨_, rfl⟩ | ⟨rest, hl, h⟩ | ⟨r, samples, rest, _, hb, hs, rfl⟩ | ⟨r, rest, _, hb, rfl⟩
      · exact .idle
      · exact .command .process s.hostIn rest s.held t (by simp_all [commandOf]) (.inr rfl) h
      · exact .offer r samples rest ha hb hs
      · exact .withdraw r rest ha hb
    case pipeline =>
      simp only [agentStep] at h
      rcases pipelineStep_cases h with ⟨_, rfl⟩ | ⟨hb, hn, h⟩ | ⟨hb, hn, rfl⟩
      · exact .idle
      · exact .sample t ha hb hn h
      · exact .epilogue ha hb hn
    case reset r =>
      have hr : resetsNext s = true := resetsNext_iff.mpr ⟨r, ha⟩
      rcases platformReset_cases h with ⟨acts, rfl, rfl⟩ | ⟨rfl, hb, rfl⟩
      · exact .reset acts hr
      · exact .resetAlone hr hb
  · subst hts
    have ht : t.turns.tail = t.turns := by
      cases hs : t.turns with
      | nil => rfl
      | cons a ts => simp [nextTurn, hs] at hn
    have := StepEffect.idle (s := t)
    rwa [ht] at this

end Sys2Proof.Machine
end

