-- ==== Sys2Proof/Laws/Encoding.lean ====
section
/-! SUPPORT. The fields of a command word put together from an opcode and an operand field, and the codes of the named fields. -/

namespace Sys2Proof

@[simp] theorem opcodeField_append (opc : BitVec 8) (opr : BitVec 24) : opcodeField (opc ++ opr) = opc := by
  apply BitVec.eq_of_getLsbD_eq
  intro i hi
  have h : (opc ++ opr).getLsbD (24 + i) = _ := BitVec.getLsbD_append
  simpa [opcodeField, hi] using h

@[simp] theorem operandField_append (opc : BitVec 8) (opr : BitVec 24) : operandField (opc ++ opr) = opr := by
  apply BitVec.eq_of_getLsbD_eq
  intro i hi
  have h : (opc ++ opr).getLsbD i = _ := BitVec.getLsbD_append
  simpa [operandField, hi] using h

/-- A word is its opcode and its operand field. -/
theorem word_split (w : Word) : opcodeField w ++ operandField w = w := by
  apply BitVec.eq_of_getLsbD_eq
  intro i hi
  simp only [opcodeField, operandField, BitVec.getLsbD_append, BitVec.getLsbD_extractLsb']
  split_ifs with h
  · simp [h]
  · have h1 : i - 24 < 8 := by omega
    have h2 : 24 + (i - 24) = i := by omega
    simp [h1, h2]

@[simp] theorem mode_ofCode_code (m : Mode) : Mode.ofCode m.code = some m := by cases m <;> rfl

theorem mode_ofCode_eq_some {c : BitVec 3} {m : Mode} : Mode.ofCode c = some m ↔ m.code = c := by
  cases m <;> revert c <;> decide

theorem mode_ofCode_eq_none {c : BitVec 3} : Mode.ofCode c = none ↔ 4 < c.toNat := by revert c; decide

@[simp] theorem magAlg_ofCode_code (a : MagAlg) : MagAlg.ofCode a.code = some a := by cases a <;> rfl

theorem magAlg_ofCode_eq_some {c : BitVec 2} {a : MagAlg} : MagAlg.ofCode c = some a ↔ a.code = c := by
  cases a <;> revert c <;> decide

theorem magAlg_ofCode_eq_none {c : BitVec 2} : MagAlg.ofCode c = none ↔ c = 3 := by revert c; decide

/-- The reserved field and the index of a format X operand. -/
theorem index_fields (k : BitVec 16) :
    ((0#8) ++ k).extractLsb' 16 8 = 0 ∧ ((0#8) ++ k).extractLsb' 0 16 = k := by
  constructor <;> apply BitVec.eq_of_getLsbD_eq <;> intro i hi
  · have h : ((0#8) ++ k).getLsbD (16 + i) = _ := BitVec.getLsbD_append
    simpa [hi] using h
  · have h : ((0#8) ++ k).getLsbD i = _ := BitVec.getLsbD_append
    simpa [hi] using h

/-- Formats N and R: a set operand bit is reserved (R62). -/
theorem decodeBare_cases (i : Instr) (opr : BitVec 24) :
    opr ≠ 0 ∧ decodeBare i opr = .error .reservedNonzero ∨ opr = 0 ∧ decodeBare i opr = .ok i := by
  by_cases h : opr = 0
  · exact .inr ⟨h, if_pos h⟩
  · exact .inl ⟨h, if_neg h⟩

/-- Format X: a set reserved bit, or the index (R65). -/
theorem decodeIndex_cases (mk : BitVec 16 → Instr) (opr : BitVec 24) :
    opr.extractLsb' 16 8 ≠ 0 ∧ decodeIndex mk opr = .error .reservedNonzero ∨
      opr.extractLsb' 16 8 = 0 ∧ decodeIndex mk opr = .ok (mk (opr.extractLsb' 0 16)) := by
  by_cases h : opr.extractLsb' 16 8 = 0
  · exact .inr ⟨h, if_neg (not_not.mpr h)⟩
  · exact .inl ⟨h, if_pos h⟩

/-- Format M: a set reserved bit, an illegal mode code, or a mode (R66). -/
theorem decodeMode_cases (opr : BitVec 24) :
    opr.extractLsb' 3 21 ≠ 0 ∧ decodeMode opr = .error .reservedNonzero ∨
      (opr.extractLsb' 3 21 = 0 ∧ 4 < (opr.extractLsb' 0 3).toNat ∧ decodeMode opr = .error .illegalValue) ∨
      (opr.extractLsb' 3 21 = 0 ∧ (opr.extractLsb' 0 3).toNat ≤ 4 ∧
        ∃ m : Mode, m.code = opr.extractLsb' 0 3 ∧ decodeMode opr = .ok (.setmode m)) := by
  by_cases h : opr.extractLsb' 3 21 = 0
  · right
    rw [decodeMode, if_neg (not_not.mpr h)]
    cases hm : Mode.ofCode (opr.extractLsb' 0 3) with
    | none => exact .inl ⟨h, mode_ofCode_eq_none.mp hm, rfl⟩
    | some m =>
      have hn : ¬4 < (opr.extractLsb' 0 3).toNat := fun hc => by rw [mode_ofCode_eq_none.mpr hc] at hm; cases hm
      exact .inr ⟨h, by omega, m, mode_ofCode_eq_some.mp hm, rfl⟩
  · exact .inl ⟨h, if_pos h⟩

/-- Format C: a set reserved bit, an illegal MAGSEL or RATIO, or a configuration (R63). -/
theorem decodeConfig_cases (opr : BitVec 24) :
    ((opr.extractLsb' 12 12 ≠ 0 ∨ opr.extractLsb' 6 2 ≠ 0) ∧ decodeConfig opr = .error .reservedNonzero) ∨
      ¬(opr.extractLsb' 12 12 ≠ 0 ∨ opr.extractLsb' 6 2 ≠ 0) ∧
        ((opr.extractLsb' 0 2 = 3 ∨ opr.extractLsb' 8 4 = 0) ∧ decodeConfig opr = .error .illegalValue ∨
          ¬(opr.extractLsb' 0 2 = 3 ∨ opr.extractLsb' 8 4 = 0) ∧ ∃ a : MagAlg, a.code = opr.extractLsb' 0 2 ∧
            decodeConfig opr = .ok (.setcfg
              ⟨a, flagAt opr 2, flagAt opr 3, flagAt opr 4, flagAt opr 5, opr.extractLsb' 8 4⟩)) := by
  by_cases h : opr.extractLsb' 12 12 ≠ 0 ∨ opr.extractLsb' 6 2 ≠ 0
  · exact .inl ⟨h, if_pos h⟩
  · refine .inr ⟨h, ?_⟩
    simp only [decodeConfig, if_neg h]
    cases ha : MagAlg.ofCode (opr.extractLsb' 0 2) with
    | none => exact .inl ⟨.inl (magAlg_ofCode_eq_none.mp ha), rfl⟩
    | some a =>
      have hn : opr.extractLsb' 0 2 ≠ 3 := fun hc => by rw [magAlg_ofCode_eq_none.mpr hc] at ha; cases ha
      by_cases hr : opr.extractLsb' 8 4 = 0
      · exact .inl ⟨.inr hr, if_pos hr⟩
      · exact .inr ⟨by tauto, a, magAlg_ofCode_eq_some.mp ha, if_neg hr⟩

end Sys2Proof
end

