-- ==== Sys2Proof/Laws/PerInstr.lean ====
section
/-! SUPPORT. Statements made for every command by one lemma per constructor. -/

namespace Sys2Proof.Laws.EncodeFields

/-- The word of a command carries the opcode and the operand field of that command (R61, R62, R67). -/
def Statement (i : Instr) : Prop := opcodeField (encode i) = opcodeOf i ∧ operandField (encode i) = operandOf i

theorem of_append (i : Instr) : Statement i := ⟨opcodeField_append _ _, operandField_append _ _⟩

theorem nop : Statement .nop := of_append _
theorem setmode (m : Mode) : Statement (.setmode m) := of_append _
theorem setcfg (c : Cfg) : Statement (.setcfg c) := of_append _
theorem rdcfg : Statement .rdcfg := of_append _
theorem rdpos : Statement .rdpos := of_append _
theorem rdmag (k : BitVec 16) : Statement (.rdmag k) := of_append _
theorem rdph (k : BitVec 16) : Statement (.rdph k) := of_append _
theorem rddbg : Statement .rddbg := of_append _
theorem clrf : Statement .clrf := of_append _
theorem sat16 : Statement .sat16 := of_append _
theorem abs16 : Statement .abs16 := of_append _
theorem isqrt : Statement .isqrt := of_append _
theorem ssbu : Statement .ssbu := of_append _
theorem ssbl : Statement .ssbl := of_append _
theorem magf : Statement .magf := of_append _
theorem magf2 : Statement .magf2 := of_append _
theorem magx : Statement .magx := of_append _
theorem mags : Statement .mags := of_append _
theorem phase : Statement .phase := of_append _
theorem hstep : Statement .hstep := of_append _
theorem dstep : Statement .dstep := of_append _
theorem dpub : Statement .dpub := of_append _
theorem process : Statement .process := of_append _

end Sys2Proof.Laws.EncodeFields
end

