-- ==== Sys2Proof/Machine/Program.lean ====
section
/-! DEFINITION. Host programs (spec R74) and their pseudo-instructions (R75) as structured lines, and how such a program is loaded
into what the agents have yet to do. The text syntax itself is not parsed (log entry 16). -/

namespace Sys2Proof.Machine

/-- A line of a host program (R74, R75). -/
inductive Line
  /-- `wr ARG0, v` or `wr ARG1, v`, or a write to any other register, which R41 calls illegal. -/
  | wr (r : PortReg) (v : Word)
  /-- `rd REG`. -/
  | rd (r : PortReg)
  /-- A mnemonic with its operands: the CMD write of its word. -/
  | cmd (i : Instr)
  /-- A raw word written to CMD. -/
  | raw (w : Word)
  /-- `tick`: the transport's pulse. -/
  | tick
  /-- `ld2 a, b`. -/
  | ld2 (a b : Word)
  /-- `mag.f`, `mag.f2`, `mag.x`: load the pair (I, Q), then the named estimator. -/
  | mag (alg : MagAlg) (i q : Word)
  /-- `mag.s`: load the pair (I, Q), then MAGS. -/
  | magSelected (i q : Word)
  /-- `phase q, i`: load the pair (Q, I), then PHASE. -/
  | phase (q i : Word)
  /-- `waitidle`. -/
  | waitidle
  /-- `setcfg.reset`. -/
  | setcfgReset
  deriving DecidableEq, Repr

/-- The offset of a register (R40). -/
def PortReg.offset : PortReg → Nat
  | .cmd => 0x00
  | .arg0 => 0x04
  | .arg1 => 0x08
  | .res0 => 0x0C
  | .res1 => 0x10
  | .status => 0x14

/-- A whole-word write of a register of the window at `base`. -/
def writeReg (base : Nat) (r : PortReg) (v : Word) : HostAct := .write (base + r.offset) 4 v

/-- The command of an estimator (R75). -/
def estimator : MagAlg → Instr
  | .fast => .magf
  | .fast2 => .magf2
  | .exact => .magx

/-- The bus accesses of a line (R74, R75). -/
def Line.hostActs (base : Nat) : Line → List HostAct
  | .wr r v => [writeReg base r v]
  | .rd r => [.read (base + r.offset) 4]
  | .cmd i => [writeReg base .cmd (encode i)]
  | .raw w => [writeReg base .cmd w]
  | .tick => []
  | .ld2 a b => [writeReg base .arg0 a, writeReg base .arg1 b]
  | .mag alg i q => [writeReg base .arg0 i, writeReg base .arg1 q, writeReg base .cmd (encode (estimator alg))]
  | .magSelected i q => [writeReg base .arg0 i, writeReg base .arg1 q, writeReg base .cmd (encode .mags)]
  | .phase q i => [writeReg base .arg0 q, writeReg base .arg1 i, writeReg base .cmd (encode .phase)]
  | .waitidle => [.waitidle]
  | .setcfgReset => [writeReg base .cmd (encode (.setcfg resetCfg))]

/-- The transport's actions of a line (R74). -/
def Line.transportActs : Line → List TransportAct
  | .tick => [.tick]
  | _ => []

/-- One interleaving of a line: its accesses one after another; a `waitidle` after a whole block process has had its steps. -/
def Line.turns (blockLen : Nat) (l : Line) : List Turn :=
  match l with
  | .waitidle => List.replicate (blockLen + 1) Turn.pipeline ++ [.host]
  | .tick => [.transport]
  | l => (l.hostActs 0).map fun _ => Turn.host

/-- Load a program behind what the agents already have to do. -/
def loadProgram (ls : List Line) (s : State) : State :=
  { s with
    hostIn := s.hostIn ++ ls.flatMap (Line.hostActs s.par.hostBase)
    transIn := s.transIn ++ ls.flatMap Line.transportActs
    turns := s.turns ++ ls.flatMap (Line.turns s.par.blockLen) }

end Sys2Proof.Machine
end

