-- ==== Sys2Proof/Tests/Slice0.lean ====
section
/-! SUPPORT. Tests: expected values come from spec/95_test_vectors.md, or by hand from the rule a test names. After them, for each
statement of Certificates/Slice0/Obligations.lean with hypotheses, a concrete state and operands that meet them. -/

namespace Sys2Proof.Tests

open Sys2Proof Sys2Proof.Machine

/-! ## Well-formedness -/

/-- A configuration with a given RATIO, the other fields 0. -/
def ratioCfg (n : BitVec 4) : Cfg := ⟨.fast, false, false, false, false, n⟩

/-- RATIO = 0 is the one ill-formed term the syntax can hold (R63, R68). -/
theorem test_wf_refuses_ratio_zero : (Instr.setcfg (ratioCfg 0)).wf = false := by decide

theorem test_wf_accepts_ratio_one : (Instr.setcfg (ratioCfg 1)).wf = true := by decide

/-! ## Encoding: words written out from R62, R63 and R67 -/

theorem test_decode_control :
    decode 0x00000000 = .ok .nop ∧ decode 0x01000003 = .ok (.setmode .ssbLsb) ∧ decode 0x03000000 = .ok .rdcfg ∧
      decode 0x07000000 = .ok .rddbg ∧ decode 0x0F000000 = .ok .clrf ∧ decode 0x40000000 = .ok .process := by decide

/-- 0xF2A is RATIO 15, ENVZS 1, ENVDEC 0, RAILS 1, HSEL 0, MAGSEL 2. -/
theorem test_decode_setcfg :
    decode 0x02000F2A = .ok (.setcfg ⟨.exact, false, true, false, true, 15⟩) ∧
      decode 0x02000114 = .ok (.setcfg ⟨.fast, true, false, true, false, 1⟩) := by decide

theorem test_decode_fixed_point :
    decode 0x10000000 = .ok .sat16 ∧ decode 0x11000000 = .ok .abs16 ∧ decode 0x12000000 = .ok .isqrt ∧
      decode 0x14000000 = .ok .ssbu ∧ decode 0x15000000 = .ok .ssbl := by decide

theorem test_decode_magnitude_phase :
    decode 0x18000000 = .ok .magf ∧ decode 0x19000000 = .ok .magf2 ∧ decode 0x1A000000 = .ok .magx ∧
      decode 0x1B000000 = .ok .mags ∧ decode 0x20000000 = .ok .phase := by decide

theorem test_decode_filter_report :
    decode 0x28000000 = .ok .hstep ∧ decode 0x30000000 = .ok .dstep ∧ decode 0x31000000 = .ok .dpub ∧
      decode 0x04000000 = .ok .rdpos ∧ decode 0x0500FFFF = .ok (.rdmag 0xFFFF) ∧ decode 0x0600003F = .ok (.rdph 63) := by decide

/-- The verdicts of R68 and R70 on words that are no command. -/
theorem test_decode_refuses :
    decode 0x08000000 = .error .illegalOpcode ∧ decode 0xFF000000 = .error .illegalOpcode ∧
      decode 0x10000001 = .error .reservedNonzero ∧ decode 0x01000008 = .error .reservedNonzero ∧
      decode 0x01000005 = .error .illegalValue ∧ decode 0x02000603 = .error .illegalValue ∧
      decode 0x02000001 = .error .illegalValue ∧ decode 0x02000643 = .error .reservedNonzero ∧
      decode 0x05010000 = .error .reservedNonzero := by decide

theorem test_encode :
    encode (.setcfg ⟨.exact, false, true, false, true, 15⟩) = 0x02000F2A ∧ encode (.setmode .ssbLsb) = 0x01000003 ∧
      encode (.rdph 63) = 0x0600003F ∧ encode .dpub = 0x31000000 := by decide

theorem test_table_word : decodeTableWord 32 0x0F000000 = some .clrf ∧ decodeTableWord 32 0x13000000 = none := by decide

/-! ## One command on a small state -/

/-- RES0 and RES1 after a step that goes on. -/
def results : Host.Outcome State Fault Refusal → Option (Word × Word)
  | .next s => some (s.res0, s.res1)
  | _ => none

/-- A view of the state after a step that goes on. -/
def viewOf {α : Type} (f : State → α) : Host.Outcome State Fault Refusal → Option α
  | .next s => some (f s)
  | _ => none

/-- Why a step stops, if it does. -/
def stopOf : Host.Outcome State Fault Refusal → Option (Fault ⊕ Refusal)
  | .next _ => none
  | .fault r => some (.inl r)
  | .refused r => some (.inr r)

/-- The reset state with ARG0 and ARG1 set. -/
def withArgs (a b : Word) : State := { State.reset with arg0 := a, arg1 := b }

/-- The reset state with blocks of 4 samples. -/
def small : State := { State.reset with par := { Config.reference with blockLen := 4 } }

theorem test_nop : viewOf (fun t => t) (exec .nop (withArgs 1 2)) = some (withArgs 1 2) := by decide

theorem test_setmode_clears :
    viewOf (fun t => (t.mode, t.rem, t.avail, t.mag)) (exec (.setmode .report)
      { small with rem := 2, avail := true, mag := [(1, 7)] }) = some (.report, 0, false, []) := by decide

/-- §4 P4 line 23: no clear, REM stays. -/
theorem test_setcfg_keeps_rem :
    viewOf (fun t => (t.cfg, t.rem)) (exec (.setcfg (ratioCfg 1)) { small with rem := 2 }) = some (ratioCfg 1, 2) := by decide

/-- §4 P6 line 8: held while BUSY = 1. -/
theorem test_setmode_held :
    viewOf (fun t => (t.mode, t.held)) (exec (.setmode .idle) { small with mode := .report, busy := true })
      = some (.report, some (.setmode .idle)) := by decide

/-- §4 P2 line 20. -/
theorem test_rdcfg : results (exec .rdcfg State.reset) = some (0x601, 0) := by decide

theorem test_rdcfg_mode :
    results (exec .rdcfg { State.reset with mode := .report, cfg := ⟨.exact, true, false, true, false, 9⟩ }) = some (0x916, 4) := by
  decide

/-- §4 P4 line 22. -/
theorem test_rddbg : results (exec .rddbg { State.reset with rem := 2, widx := 5 }) = some (2, 5) := by decide

theorem test_clrf :
    viewOf (fun t => (t.fault, t.fcause)) (exec .clrf { State.reset with fault := true, fcause := .overrun })
      = some (false, .none) := by decide

/-- §2.1. -/
theorem test_sat16 : results (exec .sat16 (withArgs 0xFFFF8000 0)) = some (0xFFFF8001, 0) ∧
    results (exec .sat16 (withArgs 0x7FFFFFFF 0)) = some (0x7FFF, 0) := by decide

/-- §2.1. -/
theorem test_abs16 : results (exec .abs16 (withArgs 0xFFFF8000 0)) = some (0x8000, 0) ∧
    results (exec .abs16 (withArgs 0x12345678 0)) = some (0x5678, 0) := by decide

/-- §2.1. -/
theorem test_isqrt : results (exec .isqrt (withArgs 0xFFFE0000 0)) = some (65534, 0) ∧
    results (exec .isqrt (withArgs 0xFFFFFFFF 0)) = some (65535, 0) := by decide

/-- §2.1: the exact sum 2^31 does not wrap. -/
theorem test_ssbu : results (exec .ssbu (withArgs 0x7FFFFFFF 1)) = some (0x7FFF, 0) ∧
    results (exec .ssbu (withArgs 100 0xFFFFFFF9)) = some (0x5D, 0) := by decide

/-- §2.1: the exact difference -2^31 - 1 does not wrap. -/
theorem test_ssbl : results (exec .ssbl (withArgs 0x80000000 1)) = some (0xFFFF8001, 0) ∧
    results (exec .ssbl (withArgs 100 0xFFFFFFF9)) = some (0x6B, 0) := by decide

/-- §2.2. -/
theorem test_magf : results (exec .magf (withArgs 1000 1000)) = some (1343, 0) ∧
    results (exec .magf (withArgs 0xFFFFFFFB 12)) = some (12, 0) := by decide

/-- §2.2: the two sides of the branch. -/
theorem test_magf2 : results (exec .magf2 (withArgs 1000 250)) = some (1000, 0) ∧
    results (exec .magf2 (withArgs 1000 500)) = some (1125, 0) := by decide

/-- §2.2. -/
theorem test_magx : results (exec .magx (withArgs 0xABCD0003 4)) = some (5, 0) ∧
    results (exec .magx (withArgs 30000 30000)) = some (32767, 0) := by decide

/-- §2.2: MAGSEL = 1 at reset. -/
theorem test_mags : results (exec .mags (withArgs 1000 1000)) = some (1375, 0) := by decide

/-- §2.3: Q in ARG0, I in ARG1. -/
theorem test_phase : results (exec .phase (withArgs 100 173)) = some (2714, 0) ∧
    results (exec .phase (withArgs 0xFFFFFF9C 0xFFFFFF53)) = some (0xFFFFCA9A, 0) := by decide

/-- §2.3: the half turn, and the first unit above it on the other side. -/
theorem test_phase_axis : results (exec .phase (withArgs 0 0xFFFFFFFF)) = some (0x4000, 0) ∧
    results (exec .phase (withArgs 0xFFFFFFFF 0)) = some (0xFFFFE000, 0) := by decide

/-- §2.4, dual-rail impulse on Q: the filter acts on the Q line. -/
theorem test_hstep_dual : results (exec .hstep (withArgs 0 10000)) = some (0, 0xFFFFFFF0) := by decide

/-- §2.4 and §4 P3: in single rail it acts on the I line and leaves the Q line alone. -/
theorem test_hstep_single :
    viewOf (fun t => (t.res0, t.res1, t.dlI[30], t.dlQ[30])) (exec .hstep
      { withArgs 10000 5 with cfg := { resetCfg with rails := true } }) = some (0, 0xFFFFFFF0, 10000, 0) := by decide

/-- §2.5 and §4 P4: the third DSTEP at RATIO = 3 writes MAG 5 and PH 4854. -/
theorem test_dstep_writes :
    let s := { withArgs 3 4 with cfg := { ratioCfg 3 with magsel := .exact }, rem := 2 }
    viewOf (fun t => (t.res0, t.rem, t.widx)) (exec .dstep s) = some (1, 0, 1) ∧
      viewOf (fun t => (t.mag, t.ph)) (exec .dstep s) = some ([(0, 5)], [(0, 4854)]) := by decide

theorem test_dstep_counts :
    viewOf (fun t => (t.res0, t.rem, t.widx, t.mag)) (exec .dstep (withArgs 3 4)) = some (0, 1, 0, []) := by decide

/-- §4 P4 line 9. -/
theorem test_dpub : viewOf (fun t => t.rpos) (exec .dpub { State.reset with widx := 7 }) = some 7 := by decide

theorem test_rdpos : results (exec .rdpos { State.reset with rpos := 64, widx := 70 }) = some (64, 0) := by decide

/-- §4 P1 lines 9 and 13: the last legal index is L - 1. -/
theorem test_rdmag : results (exec (.rdmag 127) { State.reset with mag := [(127, 6478)] }) = some (0x194E, 0) ∧
    viewOf (fun t => (t.res0, statusWord t)) (exec (.rdmag 128) { State.reset with res0 := 9, mode := .report, avail := true })
      = some (9, 0x446) := by decide

/-- §4 P1 line 8: sign-extended. -/
theorem test_rdph : results (exec (.rdph 0) { State.reset with ph := [(0, BitVec.ofInt 16 (-7352))] })
    = some (0xFFFFE348, 0) := by decide

/-- A state with both blocks on offer. -/
def offered (m : Mode) : State :=
  { small with mode := m, presentI := true, presentQ := true, blkI := [(0, 1000), (3, 7)], blkQ := [(0, 1000)] }

/-- §3.6: a drain in IDLE. -/
theorem test_process_drains :
    viewOf (fun t => (t.busy, t.events)) (exec .process (offered .idle))
      = some (false, [.acq .i, .rel .i, .acq .q, .rel .q]) := by decide

/-- §4 P6 lines 2 and 7: the prologue, and the overrun of a TICK that comes while BUSY = 1. -/
theorem test_process_starts :
    viewOf (fun t => (t.busy, t.acqI, t.acqQ, t.events)) (exec .process (offered .report))
      = some (true, true, true, [.acq .i, .acq .q]) ∧
    viewOf statusWord (exec .process { offered .report with busy := true }) = some 0x465 := by decide

/-! ## Pipeline steps and agents -/

/-- A block process in progress, both blocks held. -/
def processing (m : Mode) : State :=
  { offered m with busy := true, acqI := true, acqQ := true, turns := [.pipeline], events := [.acq .i, .acq .q] }

/-- §1.6: the ENVELOPE output with MAGSEL = 0 is 1343, and no other sample changes. -/
theorem test_envelope_step :
    viewOf (fun t => (t.blkI, t.sidx, t.rem)) (step { processing .envelope with cfg := ratioCfg 6 })
      = some ([(0, 1343), (3, 7)], 1, 0) := by decide

/-- §4 P5 line 6: with ENVDEC and ENVZS the skipped sample becomes 0. -/
theorem test_envelope_silence :
    viewOf (fun t => (t.blkI, t.rem)) (step { processing .envelope with cfg := ⟨.fast, false, false, true, true, 4⟩ })
      = some ([(3, 7)], 1) := by decide

/-- §3.4, first sample of the impulse response: I_d = 0, Q_h = -16; SSB_USB stores the sum, SSB_LSB the difference. -/
theorem test_ssb_step :
    viewOf (fun t => Memory.read t.blkI 0) (step
      { processing .ssbUsb with blkI := [(0, 10000)], cfg := { resetCfg with rails := true } }) = some (BitVec.ofInt 16 (-16)) ∧
    viewOf (fun t => Memory.read t.blkI 0) (step
      { processing .ssbLsb with blkI := [(0, 10000)], cfg := { resetCfg with rails := true } }) = some 16 := by decide

/-- §4 P4 line 6 as a REPORT sample. -/
theorem test_report_step :
    viewOf (fun t => (t.mag, t.ph, t.widx, t.blkI)) (step { processing .report with cfg := ratioCfg 1 })
      = some ([(0, 1343)], [(0, 4096)], 1, [(0, 1000), (3, 7)]) := by decide

/-- §4 P5 line 3 and §3.5: the events of an epilogue. -/
theorem test_epilogue :
    viewOf (fun t => (t.busy, t.events)) (step { processing .envelope with sidx := 4, events := [] })
      = some (false, [.pubI, .rel .i, .rel .q]) ∧
    viewOf (fun t => (t.rpos, t.events)) (step { processing .report with sidx := 4, widx := 2, events := [] })
      = some (2, [.rel .i, .rel .q]) := by decide

/-- The placed word runs in the very next step, also as the first command after reset. -/
theorem test_withFetchWord_runs :
    results (step ((withArgs 3 4).withFetchWord 32 0x1A000000)) = some (5, 0) ∧
      viewOf (fun t => t.mode) (step (State.reset.withFetchWord 32 0x01000002)) = some .ssbUsb := by decide

/-- A state whose host makes one bus access next. -/
def hostDoes (a : HostAct) (s : State) : State := { s with hostIn := [a], turns := [.host] }

/-- R41: a half-word read and a read of CMD are illegal and return 0; a read past the window does not reach the core. -/
theorem test_port_illegal :
    viewOf (fun t => (t.fcause, t.busData)) (step (hostDoes (.read 4 2) { withArgs 1 2 with busData := 9 }))
      = some (.badAccess, 0) ∧
    viewOf (fun t => t.fcause) (step (hostDoes (.read 0 4) State.reset)) = some .badAccess ∧
    viewOf (fun t => (t.fault, t.busData)) (step (hostDoes (.read 32 4) { withArgs 1 2 with busData := 9 })) = some (false, 9) := by
  decide

theorem test_transport_breach :
    stopOf (step { processing .report with transIn := [.withdraw .i], turns := [.transport] })
      = some (.inr .transportBreach) := by decide

theorem test_transport_not_a_block :
    stopOf (step { small with transIn := [.offer .i [1, 2, 3]], turns := [.transport] }) = some (.inr .notABlock) := by decide

/-- R191, U17: a reset of a block process with a transport that restarts takes back its offers and drops the actions it had left;
with a transport that does not restart it is refused, and with no block process to abandon it resets the core. -/
theorem test_reset_restarts_transport :
    viewOf (fun t => (t.presentI, t.presentQ, t.transIn))
        (step { processing .report with transIn := [.withdraw .i], turns := [.reset (some [.tick])] })
      = some (false, false, [.tick]) ∧
    stopOf (step { processing .report with turns := [.reset none] }) = some (.inr .transportNotRestarted) ∧
    viewOf (fun t => (t.mode, t.presentI, t.transIn)) (step { offered .report with transIn := [.tick], turns := [.reset none] })
      = some (.idle, true, [.tick]) := by decide

/-- R44: outside the invariant, a sample step on a rail that is not held stops the machine. -/
theorem test_illegal_element_access :
    stopOf (step { processing .report with acqQ := false }) = some (.inl .illegalElementAccess) := by decide

theorem test_no_sample_step_in_idle : stopOf (step (processing .idle)) = some (.inl .noSampleStep) := by decide

/-- R75: `phase q, i` writes Q to ARG0 and I to ARG1, then PHASE. -/
theorem test_program_phase : (loadProgram [.phase 100 173] State.reset).hostIn
    = [.write 4 4 100, .write 8 4 173, .write 0 4 0x20000000] := by decide

/-! ## Witnesses: states and operands that meet the hypotheses of the statements -/

theorem witness_DecodeOfEncode : (Instr.setcfg (ratioCfg 15)).wf = true := by decide

theorem witness_EncodeOfDecode : decode 0x05000080 = .ok (.rdmag 128) := by decide

/-- Each verdict of the decoder at a boundary of its range. -/
theorem witness_DecodeVerdict :
    decode (0x41#8 ++ 0#24) = .error .illegalOpcode ∧ decode (0x13#8 ++ 0#24) = .error .illegalOpcode ∧
      decode (0x01#8 ++ 8#24) = .error .reservedNonzero ∧ decode (0x02#8 ++ 0x1600#24) = .error .reservedNonzero ∧
      decode (0x02#8 ++ 0x640#24) = .error .reservedNonzero ∧ decode (0x06#8 ++ 0x10000#24) = .error .reservedNonzero ∧
      decode (0x40#8 ++ 1#24) = .error .reservedNonzero ∧ decode (0x01#8 ++ 5#24) = .error .illegalValue ∧
      decode (0x02#8 ++ 0x603#24) = .error .illegalValue ∧ decode (0x02#8 ++ 0x002#24) = .error .illegalValue ∧
      decode (0x01#8 ++ 4#24) = .ok (.setmode .report) ∧ decode (0x05#8 ++ 0xFFFF#24) = .ok (.rdmag 0xFFFF) ∧
      decode (0x40#8 ++ 0#24) = .ok .process := by decide

theorem witness_StepRunsHostCommand :
    let s := hostDoes (.write 0 4 0x1A000000) (withArgs 3 4)
    s.turns = .host :: [] ∧ s.held = none ∧ s.hostIn = .write s.par.hostBase 4 0x1A000000 :: [] ∧
      decode 0x1A000000 = .ok .magx := by decide

theorem witness_StepRunsTick :
    let s := { offered .report with transIn := [.tick], turns := [.transport] }
    s.turns = .transport :: [] ∧ s.transIn = .tick :: [] := by decide

/-- A host held by SETMODE IDLE. -/
def holding (busy : Bool) : State :=
  { processing .report with busy := busy, held := some (.setmode .idle), turns := [.host] }

theorem witness_HoldOfMutatingCommands :
    (Instr.setmode .idle).mutating = true ∧ (Instr.setmode .idle).wf = true ∧ (processing .report).busy = true ∧
      Instr.clrf.mutating = false ∧ (viewOf State.held (exec .clrf (holding true))).isSome = true ∧
      (holding true).turns = .host :: [] ∧ (holding true).held = some (.setmode .idle) ∧ (holding true).busy = true ∧
      (holding false).busy = false ∧
      nextTurn { holding true with turns := [.transport] } = some .transport ∧
      (viewOf State.held (step { holding true with turns := [.transport] })).isSome = true ∧
      nextTurn { holding true with turns := [.pipeline] } = some .pipeline ∧
      (viewOf State.held (step { holding true with turns := [.pipeline] })).isSome = true := by decide

theorem witness_IllegalWordOnlyRecordsCause :
    let s := hostDoes (.write 0 4 0x01000005) (processing .report)
    s.turns = .host :: [] ∧ s.held = none ∧ s.hostIn = .write s.par.hostBase 4 0x01000005 :: [] ∧
      decode 0x01000005 = .error .illegalValue := by decide

/-- A state whose port H window is at 64 to 95. -/
def window : State :=
  { withArgs 1 2 with res0 := 3, res1 := 4, mode := .report, par := { Config.reference with hostBase := 64 } }

/-- The data and the cause of a read. -/
def readAt (addr size : Nat) : Option (Word × Cause) :=
  viewOf (fun t => (t.busData, t.fcause)) (step (hostDoes (.read addr size) window))

/-- ARG0, ARG1 and the cause after a write. -/
def writeAt (addr size : Nat) : Option (Word × Word × Cause) :=
  viewOf (fun t => (t.arg0, t.arg1, t.fcause)) (step (hostDoes (.write addr size 0x0F000000) window))

/-- The legal accesses, and the illegal ones next to them: the byte before a register, the last register and the reserved offset
after it, the last byte of the window and the first one past it. -/
theorem witness_PortAccess_reads :
    [63, 64, 67, 68, 72, 76, 80, 84, 88, 95, 96].map (readAt · 4) =
      [some (0, .none), some (0, .badAccess), some (0, .badAccess), some (1, .none), some (2, .none), some (3, .none),
        some (4, .none), some (0x400, .none), some (0, .badAccess), some (0, .badAccess), some (0, .none)] ∧
      readAt 68 2 = some (0, .badAccess) := by decide

theorem witness_PortAccess_writes :
    [63, 64, 68, 72, 76, 95, 96].map (writeAt · 4) =
      [some (1, 2, .none), some (1, 2, .none), some (0x0F000000, 2, .none), some (1, 0x0F000000, .none),
        some (1, 2, .badAccess), some (1, 2, .badAccess), some (1, 2, .none)] ∧
      writeAt 72 2 = some (1, 2, .badAccess) := by decide

theorem witness_FaultIsSticky :
    let s := { State.reset with fault := true, fcause := .overrun }
    s.fault = true ∧ viewOf State.fcause (step (hostDoes (.read 0 4) s)) = some .overrun := by decide

theorem witness_SetmodeCommand :
    (8#24).extractLsb' 3 21 ≠ 0 ∧ (5#24).extractLsb' 3 21 = 0 ∧ 4 < ((5#24).extractLsb' 0 3).toNat ∧
      (4#24).extractLsb' 3 21 = 0 ∧ ((4#24).extractLsb' 0 3).toNat ≤ 4 ∧ small.busy = false ∧
      (processing .report).busy = true := by decide

theorem witness_SetcfgCommand :
    (0x1601#24).extractLsb' 12 12 ≠ 0 ∧ (0x681#24).extractLsb' 6 2 ≠ 0 ∧
      ¬((0x603#24).extractLsb' 12 12 ≠ 0 ∨ (0x603#24).extractLsb' 6 2 ≠ 0) ∧ (0x603#24).extractLsb' 0 2 = 3 ∧
      (0x001#24).extractLsb' 8 4 = 0 ∧ ¬((0x101#24).extractLsb' 0 2 = 3 ∨ (0x101#24).extractLsb' 8 4 = 0) ∧
      (ratioCfg 1).ratio ≠ 0 ∧ small.busy = false ∧ (processing .report).busy = true := by decide

theorem witness_MagsCommand :
    { small with cfg := ratioCfg 6 }.cfg.magsel = .fast ∧ small.cfg.magsel = .fast2 ∧
      { small with cfg := ⟨.exact, false, false, false, false, 6⟩ }.cfg.magsel = .exact := by decide

/-- (3, 4), (4, -3) and (-3, 4) have one magnitude; (1000, 250) is at the edge of the first branch; the norm of (3, 4) is below
the clip. -/
theorem witness_MagnitudeProperties :
    ((4 : Sample).toInt.natAbs = (4 : Sample).toInt.natAbs ∧ (-3 : Sample).toInt.natAbs = (3 : Sample).toInt.natAbs) ∧
      min (1000 : Sample).toInt.natAbs (250 : Sample).toInt.natAbs
        ≤ max (1000 : Sample).toInt.natAbs (250 : Sample).toInt.natAbs / 4 ∧
      Real.sqrt (((3 : Sample).toInt : ℝ) ^ 2 + ((4 : Sample).toInt : ℝ) ^ 2) < 32768 := by
  refine ⟨by decide, by decide, ?_⟩
  rw [show ((3 : Sample).toInt : ℝ) = 3 by norm_num [show (3 : Sample).toInt = 3 by decide],
    show ((4 : Sample).toInt : ℝ) = 4 by norm_num [show (4 : Sample).toInt = 4 by decide],
    Real.sqrt_lt' (by norm_num)]
  norm_num

theorem witness_PhaseProperties :
    Config.reference.Legal ∧ 0 < (1 : Sample).toInt ∧ (-1 : Sample).toInt < 0 ∧ (0 : Sample).toInt = 0 ∧
      (32767 : Sample).toInt ≠ 0 ∧ (-32767 : Sample).toInt = -(32767 : Sample).toInt ∧
      { withArgs 100 173 with rem := 3 }.arg0 = (withArgs 100 173).arg0 ∧
      results (exec .phase { withArgs 100 173 with rem := 3 }) = some (2714, 0) ∧
      results (exec .phase (withArgs 100 173)) = some (2714, 0) :=
  ⟨reference_legal, by decide⟩

theorem witness_PhaseRange :
    Config.reference.Legal ∧ (0 : Sample).toInt = 0 ∧ (-32768 : Sample).toInt < 0 ∧ (-1 : Sample).toInt < 0 ∧
      (-1 : Sample).toInt.natAbs ≤ (-32768 : Sample).toInt.natAbs ∧
      octant Config.reference ((-1 : Sample).toInt.natAbs * 32768 / (-32768 : Sample).toInt.natAbs) = 0 :=
  ⟨reference_legal, by decide⟩

theorem witness_HstepCommand :
    (withArgs 1 2).busy = false ∧ (processing .ssbUsb).busy = true ∧ resetCfg.rails = false ∧
      { resetCfg with rails := true }.rails = true := by decide

theorem witness_HilbertRange :
    Config.reference.Legal ∧ ∀ j : Fin 31, IsSample ((Vector.replicate 31 (BitVec.ofInt 32 (-32768)))[j]).toInt := by
  refine ⟨reference_legal, fun j => ?_⟩
  simp only [Fin.getElem_fin, Vector.getElem_replicate]
  constructor <;> decide

/-- 30 operand pairs leave the oldest tap 0, 15 leave I_d 0, and the last of 31 is the newest tap. -/
theorem witness_HilbertStartup :
    State.reset.busy = false ∧ State.reset.dlI = DelayLine.zero ∧ State.reset.dlQ = DelayLine.zero ∧
      0 + (List.replicate 30 ((1, 2) : Word × Word)).length < 31 ∧ 0 < (List.replicate 15 (withArgs 1 2).arg0).length ∧ (List.replicate 15 (withArgs 1 2).arg0).length ≤ 15 ∧
      31 ≤ (List.replicate 31 ((1, 2) : Word × Word)).length ∧
      (List.replicate 31 ((1, 2) : Word × Word))[31 - 31 + 30]? = some (1, 2) ∧ State.reset.cfg.rails = false := by decide

theorem witness_ConstantInputSettles : State.reset.busy = false ∧ 31 ≤ 31 := by decide

theorem witness_DstepCommand :
    State.reset.busy = false ∧ State.reset.rem.toNat + 1 < State.reset.cfg.ratio.toNat ∧
      State.reset.cfg.ratio.toNat ≤ { State.reset with rem := 5 }.rem.toNat + 1 ∧ Memory.wf State.reset.mag ∧
      Memory.wf State.reset.ph ∧ (processing .report).busy = true :=
  ⟨by decide, by decide, by decide, Memory.wf_nil, Memory.wf_nil, by decide⟩

theorem witness_DecimatorStream :
    State.reset.clearPipeline = State.reset ∧ State.reset.busy = false ∧ State.reset.cfg.ratio ≠ 0 ∧ State.reset.par.Legal :=
  ⟨by decide, by decide, by decide, reference_legal⟩

theorem witness_DpubCommand : small.busy = false ∧ (processing .report).busy = true := by decide

/-- The last legal index and the first illegal one. -/
theorem witness_ReportReads :
    (0x10000#24).extractLsb' 16 8 ≠ 0 ∧ (0xFFFF#24).extractLsb' 16 8 = 0 ∧ (127 : BitVec 16).toNat < State.reset.par.blockLen ∧
      State.reset.par.blockLen ≤ (128 : BitVec 16).toNat := by decide

/-- Busy; not ready in IDLE, and not ready for want of the Q block; ready, and ready in single rail without the Q block. -/
theorem witness_ProcessCommand :
    let ready := fun s : State => s.mode ≠ .idle ∧ s.presentI = true ∧
      (s.presentQ = true ∨ (s.mode = .ssbUsb ∨ s.mode = .ssbLsb) ∧ s.cfg.rails = true)
    (processing .report).busy = true ∧ (offered .idle).busy = false ∧ ¬ready (offered .idle) ∧
      ¬ready { offered .envelope with presentQ := false } ∧ ready (offered .envelope) ∧
      ready { offered .ssbLsb with presentQ := false, cfg := { resetCfg with rails := true } } := by decide

theorem witness_EnvelopeSampleStep :
    let s := processing .envelope
    s.turns = .pipeline :: [] ∧ s.busy = true ∧ s.mode = .envelope ∧ s.acqI = true ∧ s.acqQ = true ∧
      s.sidx < s.par.blockLen ∧ Memory.wf s.blkI := by
  refine ⟨by decide, by decide, by decide, by decide, by decide, by decide, ?_⟩
  constructor <;> decide

/-- The four cases of ENVDEC, ENVZS and a complete run. -/
theorem witness_EnvelopeSampleStep_cases :
    resetCfg.envdec = false ∧ ¬resetCfg.ratio.toNat ≤ (0 : BitVec 4).toNat + 1 ∧ resetCfg.ratio.toNat ≤ (5 : BitVec 4).toNat + 1 ∧
      viewOf (fun t => Memory.read t.blkI 0)
        (step { processing .envelope with cfg := { ratioCfg 6 with envdec := true }, rem := 5 }) = some 1343 ∧
      viewOf (fun t => Memory.read t.blkI 0)
        (step { processing .envelope with cfg := { ratioCfg 6 with envdec := true }, rem := 4 }) = some 1000 ∧
      viewOf (fun t => Memory.read t.blkI 0)
        (step { processing .envelope with cfg := { ratioCfg 6 with envdec := true, envzs := true }, rem := 4 }) = some 0 := by
  decide

theorem witness_SsbSampleStep :
    let s := processing .ssbLsb
    s.turns = .pipeline :: [] ∧ s.busy = true ∧ (s.mode = .ssbUsb ∨ s.mode = .ssbLsb) ∧ s.acqI = true ∧
      (s.cfg.rails = false → s.acqQ = true) ∧ s.sidx < s.par.blockLen ∧ Memory.wf s.blkI := by
  refine ⟨by decide, by decide, by decide, by decide, by decide, by decide, ?_⟩
  constructor <;> decide

theorem witness_ReportSampleStep :
    let s := processing .report
    s.turns = .pipeline :: [] ∧ s.busy = true ∧ s.mode = .report ∧ s.acqI = true ∧ s.acqQ = true ∧
      s.sidx < s.par.blockLen ∧ Memory.wf s.mag ∧ Memory.wf s.ph ∧ s.rem.toNat + 1 < s.cfg.ratio.toNat ∧
      s.cfg.ratio.toNat ≤ { s with rem := 5 }.rem.toNat + 1 :=
  ⟨by decide, by decide, by decide, by decide, by decide, by decide, Memory.wf_nil, Memory.wf_nil, by decide, by decide⟩

theorem witness_EpilogueStep :
    let s := { processing .envelope with sidx := 4 }
    s.turns = .pipeline :: [] ∧ s.busy = true ∧ s.sidx = s.par.blockLen := by decide

theorem witness_ResetValues :
    { processing .report with turns := [.reset (some [.tick])] }.turns = .reset (some [.tick]) :: [] ∧
      { small with turns := [.reset none] }.turns = .reset none :: [] ∧ small.busy = false := by decide

/-- A SETMODE and a reset that change the mode; a SETCFG and a reset that change the configuration. -/
theorem witness_ModeMovesBySetmodeOrReset :
    viewOf State.mode (step (hostDoes (.write 0 4 0x01000004) State.reset)) = some .report ∧
      viewOf State.mode (step { processing .report with turns := [.reset (some [])] }) = some .idle ∧
      viewOf (fun t => t.cfg.word) (step (hostDoes (.write 0 4 0x02000F21) State.reset)) = some 0xF21 ∧
      viewOf (fun t => t.cfg.word) (step { small with cfg := ratioCfg 15, turns := [.reset (some [])] }) = some 0x601 := by
  decide

theorem witness_BlockProcessIsUndisturbed :
    let s := hostDoes (.write 4 4 7) (processing .report)
    (viewOf State.arg0 (step s)).isSome = true ∧ s.busy = true ∧ resetsNext s = false ∧ nextTurn s ≠ some .pipeline := by
  decide

/-- AVAIL kept by a step, set by DSTEP at WIDX = L/2, and cleared by SETMODE. -/
theorem witness_AvailLatches :
    viewOf State.avail (step { processing .report with avail := true }) = some true ∧
      viewOf State.avail (step (hostDoes (.write 0 4 0x30000000) { small with rem := 5, widx := 1 })) = some true ∧
      viewOf State.avail (step (hostDoes (.write 0 4 0x01000000) { small with avail := true })) = some false ∧
      commandOf (hostDoes (.write 0 4 0x01000000) { small with avail := true }) = some (.setmode .idle) := by decide

/-- BUSY set by a PROCESS of the host, and cleared by the epilogue and by a reset. -/
theorem witness_BusyMovesByProcessAndEpilogue :
    viewOf State.busy (step { offered .report with hostIn := [.write 0 4 0x40000000], turns := [.host] }) = some true ∧
      viewOf State.busy (step { processing .report with sidx := 4 }) = some false ∧
      viewOf State.busy (step { processing .report with turns := [.reset (some [])] }) = some false := by decide

theorem witness_PositionWrittenAtPublish :
    viewOf State.rpos (step (hostDoes (.write 0 4 0x31000000) { small with widx := 3 })) = some 3 ∧
      viewOf State.rpos (step { processing .report with sidx := 4, widx := 2 }) = some 2 ∧
      viewOf State.rpos (step (hostDoes (.write 0 4 0x01000000) { small with rpos := 2 })) = some 0 := by decide

theorem witness_ArgumentsWrittenByHost :
    viewOf (fun t => (t.arg0, t.arg1)) (step (hostDoes (.write 4 4 7) State.reset)) = some (7, 0) ∧
      viewOf (fun t => (t.arg0, t.arg1)) (step (hostDoes (.write 8 4 7) State.reset)) = some (0, 7) ∧
      viewOf (fun t => (t.arg0, t.arg1)) (step { withArgs 1 2 with turns := [.reset (some [])] }) = some (0, 0) := by decide

theorem witness_ResultsWrittenByListedCommands :
    results (step (hostDoes (.write 0 4 0x1A000000) (withArgs 3 4))) = some (5, 0) ∧
      results (step { State.reset with res1 := 7, turns := [.reset (some [])] }) = some (0, 0) := by decide

theorem witness_ParametersAreConstant : (viewOf State.par (step (processing .report))).isSome = true := by decide

theorem witness_CommandClassFrames :
    (viewOf State.res0 (exec .magf small)).isSome = true ∧ Instr.magf.mutating = false ∧ Instr.magf ≠ .process ∧
      (viewOf State.res0 (exec .hstep small)).isSome = true ∧ Instr.hstep.mutating = true ∧ Instr.hstep.wf = true ∧
      small.busy = false := by decide

theorem witness_UpperHalvesIgnored :
    Instr.magx.readsHalves = true ∧ (0xABCD0003 : Word).setWidth 16 = (3 : Word).setWidth 16 ∧
      results (exec .magx (withArgs 3 4)) = some (5, 0) := by decide

/-- A REPORT block process at its first sample, with the pipeline's turns for the whole block. -/
def reporting : State := { processing .report with turns := List.replicate 5 Turn.pipeline ++ [.host] }

/-- A state of a block process that meets the invariant. -/
theorem witness_inv : Inv reporting where
  par_legal := { reference_legal with blockLen_pow := ⟨2, by decide, by decide, rfl⟩ }
  ratio_pos := by decide
  rem_lt := by decide
  widx_lt := by decide
  rpos_lt := by decide
  sidx_le := by decide
  dlI_sample := by unfold IsSample; decide
  dlQ_sample := by unfold IsSample; decide
  mag_wf := ⟨Memory.wf_nil, Memory.below_nil _⟩
  ph_wf := ⟨Memory.wf_nil, Memory.below_nil _⟩
  blkI_wf := ⟨⟨by decide, by decide⟩, by unfold Memory.below; decide⟩
  blkQ_wf := ⟨⟨by decide, by decide⟩, by unfold Memory.below; decide⟩
  ph_range := fun _ => by simp [reporting, processing, offered, small, State.reset]
  fault_cause := by decide
  acqI_busy := by decide
  busy_presentI := by decide
  acqQ_busy := by decide
  busy_mode := by decide
  busy_needsQ := by decide
  idle_sidx := by decide
  held_mutating := fun i h => by cases h

theorem witness_InvariantKept : Inv reporting ∧ (viewOf State.sidx (step reporting)).isSome = true :=
  ⟨witness_inv, by decide⟩

theorem witness_LegalStatesAreSafe : Inv reporting := witness_inv

theorem witness_TraceStaysBalanced :
    Inv reporting ∧ TraceBalanced reporting ∧ resetsNext reporting = false ∧
      (viewOf State.sidx (step reporting)).isSome = true :=
  ⟨witness_inv, by unfold TraceBalanced; decide, by decide, by decide⟩

/-- The same block process, in turns between which the host writes ARG0 and the transport ticks. -/
def interleaved : State :=
  { reporting with
    hostIn := [.write 4 4 7]
    transIn := [.tick, .withdraw .i]
    turns := [.pipeline, .host, .pipeline, .transport, .pipeline, .pipeline] ++ .pipeline :: [.host] }

theorem witness_BlockProcessRunsToEnd :
    Inv interleaved ∧ interleaved.busy = true ∧
      interleaved.turns = [.pipeline, .host, .pipeline, .transport, .pipeline, .pipeline] ++ .pipeline :: [.host] ∧
      (∀ r, Turn.reset r ∉ [Turn.pipeline, .host, .pipeline, .transport, .pipeline, .pipeline]) ∧
      [Turn.pipeline, .host, .pipeline, .transport, .pipeline, .pipeline].count .pipeline
        = interleaved.par.blockLen - interleaved.sidx ∧
      (∀ a ∈ interleaved.transIn.take ([Turn.pipeline, .host, .pipeline, .transport, .pipeline, .pipeline].count .transport),
        a = .tick) :=
  ⟨{ witness_inv with }, by decide, by decide, fun r => by simp, by decide, by decide⟩

/-- The hypothesis that nobody else moves, at its other boundary: the pipeline's turns alone. -/
theorem witness_BlockProcessRunsToEnd_alone :
    Inv reporting ∧ reporting.turns = List.replicate 4 Turn.pipeline ++ .pipeline :: [.host] ∧
      (∀ u ∈ List.replicate 4 Turn.pipeline, u = .pipeline) ∧
      (List.replicate 4 Turn.pipeline).count .pipeline = reporting.par.blockLen - reporting.sidx :=
  ⟨witness_inv, by decide, by decide, by decide⟩

theorem witness_ReportBlockWrites :
    Inv reporting ∧ reporting.busy = true ∧ reporting.mode = .report ∧ reporting.sidx = 0 ∧
      reporting.rem.toNat < reporting.cfg.ratio.toNat ∧
      reporting.turns = List.replicate (reporting.par.blockLen + 1) Turn.pipeline ++ [.host] :=
  ⟨witness_inv, by decide, by decide, by decide, by decide, by decide⟩

end Sys2Proof.Tests
end

section
/-! The invariant of a legal state is kept by every step: one lemma for each state operation, then the commands, the sample
steps, and the step by the kinds of its effect (`step_effect`). -/

namespace Sys2Proof.Machine

variable {s : State}

/-! ### Ranges of the values that are stored -/

/-- A phase lies within half a turn on either side (R112). -/
theorem abs_phaseOf_le {p : Params} (h : p.Legal) (q i : Sample) : |phaseOf p q i| ≤ 2 * (p.qt : Int) := by
  have hr := quadrantAngle_range h (absSample q) (absSample i)
  simp only [phaseOf, abs_le]
  split_ifs <;> omega

/-- A phase fits a PH element: storing it does not wrap (R26, R112). -/
theorem toInt_ofInt_phaseOf {p : Params} (h : p.Legal) (q i : Sample) :
    (BitVec.ofInt 16 (phaseOf p q i)).toInt = phaseOf p q i := by
  have hp := abs_le.mp (abs_phaseOf_le h q i)
  have hqt := h.qt_le
  exact BitVec.toInt_ofInt_eq_self (by decide) (by omega) (by omega)

/-! ### Operations that write only what no clause is about -/

/-- No clause is about what the agents have yet to do, nor about the data on the bus. -/
theorem Inv.agents (h : Inv s) (ts : List Turn) (hi : List HostAct) (ti : List TransportAct) (bd : Word) :
    Inv { s with turns := ts, hostIn := hi, transIn := ti, busData := bd } := { h with }

theorem Inv.setRes0 (h : Inv s) (v : Word) : Inv (s.setRes0 v) := { h with }

theorem Inv.setRes1 (h : Inv s) (v : Word) : Inv (s.setRes1 v) := { h with }

theorem Inv.drain (h : Inv s) : Inv (drain s) := by
  rw [drain_eq]
  exact { h with }

/-! ### The fault and the hold -/

theorem Inv.raiseFault (h : Inv s) {c : Cause} (hc : c ≠ .none) : Inv (s.raiseFault c) := by
  refine { h with fault_cause := ?_ }
  have hfc := h.fault_cause
  cases hf : s.fault <;> simp_all

theorem Inv.clearFault (h : Inv s) : Inv s.clearFault := { h with fault_cause := by simp }

theorem Inv.reportRead (h : Inv s) (k : BitVec 16) (v : Word) : Inv (reportRead k v s) := by
  rw [reportRead_eq]
  split
  · exact h.raiseFault (by decide)
  · exact h.setRes0 v

/-- A mutating command keeps the invariant if its effect between block processes does: while BUSY = 1 it is only held (R176). -/
theorem Inv.heldWhileBusy (h : Inv s) {i : Instr} (hmut : i.mutating = true) (hwf : i.wf = true) {body : State}
    (hbody : s.busy = false → Inv body) : Inv (s.heldWhileBusy i body) := by
  cases hb : s.busy with
  | false =>
    rw [heldWhileBusy_idle hb]
    exact hbody hb
  | true =>
    rw [heldWhileBusy_busy hb]
    refine { h with held_mutating := fun j hj => ?_ }
    obtain rfl : i = j := by simpa using hj
    exact ⟨hmut, hwf⟩

/-- The state a command executes in: the turn and the agent's action are used up, and a hold that ends is taken off (R176). -/
theorem Inv.beforeCommand (h : Inv s) (ts : List Turn) (hi : List HostAct) (ti : List TransportAct) {hd : Option Instr}
    (hheld : hd = none ∨ hd = s.held) : Inv { s with turns := ts, hostIn := hi, transIn := ti, held := hd } := by
  refine { h with held_mutating := fun i hi => ?_ }
  rcases hheld with rfl | rfl
  · simp at hi
  · exact h.held_mutating i hi

/-! ### The configuration, between block processes -/

theorem zero_isSample (j : Fin 31) : IsSample (DelayLine.zero[j]).toInt := by
  simp [DelayLine.zero, IsSample]

theorem Inv.blockLen_pos (h : Inv s) : 0 < s.par.blockLen := lt_of_lt_of_le Nat.two_pos (legal_two_le h.par_legal)

/-- With BUSY = 0 the mode is free: the clauses that tie it to the held blocks speak of a block process (R148, R149). -/
theorem Inv.setMode (h : Inv s) (hb : s.busy = false) (m : Mode) : Inv { s with mode := m } :=
  { h with
    busy_mode := by simp [hb]
    busy_needsQ := by simp [hb] }

theorem Inv.setCfg (h : Inv s) (hb : s.busy = false) {c : Cfg} (hc : c.ratio ≠ 0) : Inv { s with cfg := c } :=
  { h with
    ratio_pos := hc
    busy_needsQ := by simp [hb] }

theorem Inv.clearPipeline (h : Inv s) : Inv s.clearPipeline :=
  { h with
    rem_lt := Nat.zero_lt_succ _
    widx_lt := h.blockLen_pos
    rpos_lt := h.blockLen_pos
    dlI_sample := zero_isSample
    dlQ_sample := zero_isSample
    mag_wf := ⟨Memory.wf_nil, Memory.below_nil _⟩
    ph_wf := ⟨Memory.wf_nil, Memory.below_nil _⟩
    ph_range := by simp }

/-! ### The filter and the decimator -/

theorem Inv.setLines (h : Inv s) {dI dQ : DelayLine} (hI : ∀ j : Fin 31, IsSample (dI[j]).toInt)
    (hQ : ∀ j : Fin 31, IsSample (dQ[j]).toInt) : Inv { s with dlI := dI, dlQ := dQ } :=
  { h with
    dlI_sample := hI
    dlQ_sample := hQ }

theorem Inv.hilbertShift (h : Inv s) (i q : Sample) : Inv (hilbertShift i q s) := by
  have hI := shiftIn_isSample h.dlI_sample i
  unfold Machine.hilbertShift
  split
  · exact h.setLines hI h.dlQ_sample
  · exact h.setLines hI (shiftIn_isSample h.dlQ_sample q)

/-- RATIO is at most RATIO_MAX, so REM after a count is below it (R22, R128). -/
theorem Inv.countRem (h : Inv s) : Inv { s with rem := remAfter s } := by
  have hrem := remAfter_lt h.ratio_pos
  have hratio := s.cfg.ratio.isLt
  exact { h with rem_lt := by simp only [Config.ratioMax]; omega }

/-- The pair goes to WIDX, which is below L, and the stored phase is in range for its legal parameters (R26, R121). -/
theorem Inv.writePair (h : Inv s) (i q : Sample) : Inv (writePair i q s) where
  __ := h
  widx_lt := Nat.mod_lt _ h.blockLen_pos
  mag_wf := ⟨Memory.write_wf h.mag_wf.1 _ _, Memory.write_below h.mag_wf.2 h.widx_lt _⟩
  ph_wf := ⟨Memory.write_wf h.ph_wf.1 _ _, Memory.write_below h.ph_wf.2 h.widx_lt _⟩
  ph_range k := by
    show |(Memory.read (Memory.write s.ph s.widx _) k).toInt| ≤ _
    rw [Memory.read_write h.ph_wf.1]
    split
    · rw [toInt_ofInt_phaseOf h.par_legal]
      exact abs_phaseOf_le h.par_legal q i
    · exact h.ph_range k

theorem Inv.decimStep (h : Inv s) (i q : Sample) : Inv (decimStep i q s) := by
  unfold Machine.decimStep
  split
  · exact h.countRem.writePair i q
  · exact h.countRem

theorem Inv.publishPosition (h : Inv s) : Inv (publishPosition s) := { h with rpos_lt := h.widx_lt }

/-! ### The block process -/

/-- A PROCESS that does not drain has the blocks its mode needs on offer, and acquires them (R148, R156). -/
theorem Inv.prologue (h : Inv s) (hb : s.busy = false) (hd : drains s = false) : Inv (prologue s) := by
  obtain ⟨hmode, hI, hQ⟩ := drains_eq_false.mp hd
  have hacqQ : s.acqQ = false := by simp [h.acqQ_busy, hb]
  rw [prologue_eq]
  exact { h with
    sidx_le := Nat.zero_le _
    acqI_busy := rfl
    busy_presentI := fun _ => hI
    acqQ_busy := by simp [hacqQ]
    busy_mode := fun _ => hmode
    busy_needsQ := fun _ => hQ
    idle_sidx := fun _ => rfl }

theorem Inv.start (h : Inv s) (hb : s.busy = false) : Inv (start s) := by
  rw [start_eq]
  split
  · exact h.drain
  · next hd => exact h.prologue hb (eq_false_of_ne_true hd)

theorem Inv.writeBlkI (h : Inv s) (hn : s.sidx < s.par.blockLen) (v : Sample) :
    Inv { s with blkI := Memory.write s.blkI s.sidx v } :=
  { h with blkI_wf := ⟨Memory.write_wf h.blkI_wf.1 _ _, Memory.write_below h.blkI_wf.2 hn _⟩ }

theorem Inv.advance (h : Inv s) (hb : s.busy = true) (hn : s.sidx < s.par.blockLen) : Inv (advance s) :=
  { h with
    sidx_le := hn
    idle_sidx := fun hb' => by simp [Machine.advance, hb] at hb' }

theorem Inv.envRem (h : Inv s) : Inv { s with rem := envRem s } := by
  unfold Machine.envRem
  split
  · exact h.countRem
  · exact h

theorem Inv.epilogue (h : Inv s) : Inv (epilogue s) := by
  rw [epilogue_eq]
  refine { h with
    rpos_lt := ?_
    sidx_le := Nat.zero_le _
    acqI_busy := rfl
    busy_presentI := by simp
    acqQ_busy := rfl
    busy_mode := by simp
    busy_needsQ := by simp
    idle_sidx := fun _ => rfl }
  dsimp only
  split
  · exact h.widx_lt
  · exact h.rpos_lt

/-- In a SSB step the shift of the delay lines and the output's store do not meet: the store and SIDX can come first (R158). -/
theorem ssbAfter_eq_hilbertShift_advance (sb : Sideband) (i q : Sample) (s : State) :
    ∃ v, ssbAfter sb i q s = hilbertShift i q (advance { s with blkI := Memory.write s.blkI s.sidx v }) := by
  simp only [ssbAfter, hilbertShift_eq, Machine.advance]
  exact ⟨_, rfl⟩

/-- The decimator neither reads nor writes SIDX (R121). -/
theorem decimStep_advance (i q : Sample) (s : State) :
    decimStep i q (advance s) = { decimStep i q s with sidx := s.sidx + 1 } := by
  cases hc : completesRun s with
  | false => rw [decimStep_count hc, decimStep_count (s := advance s) hc]; rfl
  | true => rw [decimStep_write hc, decimStep_write (s := advance s) hc]; rfl

/-- The sample step of every mode (R157 to R159): what it writes, then SIDX one further. -/
theorem Inv.sampleStep {t : State} (h : Inv s) (hb : s.busy = true) (hstep : sampleStep s = .next t) : Inv t := by
  obtain ⟨hI, hn, ⟨hmode, hQ, henv⟩ | ⟨sb, -, -, rfl⟩ | ⟨-, -, rfl⟩⟩ := sampleStep_cases hstep
  case inl =>
    rw [envStep_eq hmode hI hQ hn, Host.Outcome.next.injEq] at henv
    subst henv
    split
    · exact h.envRem.advance hb hn
    · exact (h.envRem.writeBlkI hn _).advance hb hn
  case inr.inl =>
    obtain ⟨v, hv⟩ := ssbAfter_eq_hilbertShift_advance sb _ _ s
    rw [hv]
    exact ((h.writeBlkI hn v).advance hb hn).hilbertShift _ _
  case inr.inr =>
    rw [← decimStep_advance]
    exact (h.advance hb hn).decimStep _ _

/-! ### The agents around the core -/

/-- A block offered between block processes has L samples (R31, R154). -/
theorem Inv.offer (h : Inv s) (hb : s.busy = false) (r : Rail) {samples : List Sample}
    (hlength : samples.length = s.par.blockLen) : Inv (State.offer r samples s) := by
  have hblk : Memory.wf (Memory.ofList samples) ∧ Memory.below (Memory.ofList samples) s.par.blockLen :=
    ⟨Memory.ofList_wf samples, hlength ▸ Memory.ofList_below samples⟩
  cases r with
  | i => exact { h with blkI_wf := hblk, busy_presentI := fun _ => rfl }
  | q =>
    exact { h with
      blkQ_wf := hblk
      acqQ_busy := by simp [State.offer, h.acqQ_busy, hb]
      busy_needsQ := fun _ _ => rfl }

theorem Inv.withdraw (h : Inv s) (hb : s.busy = false) (r : Rail) : Inv (State.withdraw r s) := by
  cases r with
  | i => exact { h with busy_presentI := by simp [State.withdraw, hb] }
  | q =>
    exact { h with
      acqQ_busy := by simp [State.withdraw, h.acqQ_busy, hb]
      busy_needsQ := by simp [State.withdraw, hb] }

/-- The reset keeps the parameters and the transport's blocks, and every other clause is about a reset value (R33, R190). -/
theorem Inv.resetCore (h : Inv s) : Inv s.resetCore where
  par_legal := h.par_legal
  ratio_pos := show resetCfg.ratio ≠ 0 by decide
  rem_lt := Nat.zero_lt_succ _
  widx_lt := h.blockLen_pos
  rpos_lt := h.blockLen_pos
  sidx_le := Nat.zero_le _
  dlI_sample := zero_isSample
  dlQ_sample := zero_isSample
  mag_wf := ⟨Memory.wf_nil, Memory.below_nil _⟩
  ph_wf := ⟨Memory.wf_nil, Memory.below_nil _⟩
  blkI_wf := h.blkI_wf
  blkQ_wf := h.blkQ_wf
  ph_range := by simp [State.reset]
  fault_cause := by simp [State.reset]
  acqI_busy := rfl
  busy_presentI := by simp [State.reset]
  acqQ_busy := rfl
  busy_mode := by simp [State.reset]
  busy_needsQ := by simp [State.reset]
  idle_sidx := fun _ => rfl
  held_mutating := by simp [State.reset]

/-- The transport can take its blocks back when BUSY is 0, as it is after the core's reset (R191). -/
theorem Inv.restartTransport (h : Inv s) (hb : s.busy = false) (acts : List TransportAct) :
    Inv (s.restartTransport acts) :=
  { h with
    busy_presentI := by simp [hb]
    acqQ_busy := by simp [h.acqQ_busy, hb]
    busy_needsQ := by simp [hb] }

/-! ### The commands and the step -/

theorem Inv.execSetcfg (h : Inv s) (c : Cfg) : ∃ t, execSetcfg c s = .next t ∧ Inv t := by
  refine ⟨_, rfl, ?_⟩
  split
  · exact h.raiseFault (by decide)
  · next hr => exact h.heldWhileBusy rfl (by simpa [Instr.wf, Cfg.wf] using hr) fun hb => h.setCfg hb hr

theorem Inv.execProcess (h : Inv s) : ∃ t, execProcess s = .next t ∧ Inv t := by
  refine ⟨_, rfl, ?_⟩
  split
  · exact h.raiseFault (by decide)
  · next hb => exact h.start (eq_false_of_ne_true hb)

/-- Every command answers a next state, which keeps the invariant. -/
theorem Inv.exec (h : Inv s) (i : Instr) : ∃ t, exec i s = .next t ∧ Inv t := by
  cases i with
  | nop => exact ⟨_, rfl, h⟩
  | setmode m => exact ⟨_, rfl, h.heldWhileBusy rfl rfl fun hb => (h.setMode hb m).clearPipeline⟩
  | setcfg c => exact h.execSetcfg c
  | rdcfg | rddbg => exact ⟨_, rfl, (h.setRes0 _).setRes1 _⟩
  | rdmag k | rdph k => exact ⟨_, rfl, h.reportRead k _⟩
  | clrf => exact ⟨_, rfl, h.clearFault⟩
  | rdpos | sat16 | abs16 | isqrt | ssbu | ssbl | magf | magf2 | magx | mags | phase => exact ⟨_, rfl, h.setRes0 _⟩
  | hstep => exact ⟨_, rfl, h.heldWhileBusy rfl rfl fun _ => ((h.hilbertShift _ _).setRes0 _).setRes1 _⟩
  | dstep => exact ⟨_, rfl, h.heldWhileBusy rfl rfl fun _ => (h.decimStep _ _).setRes0 _⟩
  | dpub => exact ⟨_, rfl, h.heldWhileBusy rfl rfl fun _ => h.publishPosition⟩
  | process => exact h.execProcess

theorem Inv.of_exec {i : Instr} {t : State} (h : Inv s) (hexec : Machine.exec i s = .next t) : Inv t := by
  obtain ⟨u, hu, hinv⟩ := h.exec i
  rwa [← Host.Outcome.next.inj (hu.symm.trans hexec)]

/-- Every effect a step can have keeps the invariant. -/
theorem Inv.stepEffect {t : State} (h : Inv s) (heffect : StepEffect s t) : Inv t := by
  have hturn := h.agents s.turns.tail
  cases heffect with
  | idle => exact hturn s.hostIn s.transIn s.busData
  | reset acts => exact (hturn s.hostIn s.transIn s.busData).resetCore.restartTransport rfl acts
  | resetAlone => exact (hturn s.hostIn s.transIn s.busData).resetCore
  | command i hi ti hd _ _ hheld hexec => exact (h.beforeCommand s.turns.tail hi ti hheld).of_exec hexec
  | hostFault hi bd c _ hc => exact (hturn hi s.transIn bd).raiseFault hc
  | hostData hi bd => exact hturn hi s.transIn bd
  | hostArg0 | hostArg1 => exact { h with }
  | offer r samples ti _ hb hlength => exact (hturn s.hostIn ti s.busData).offer hb r hlength
  | withdraw r ti _ hb => exact (hturn s.hostIn ti s.busData).withdraw hb r
  | sample _ _ hb _ hstep => exact (hturn s.hostIn s.transIn s.busData).sampleStep hb hstep
  | epilogue => exact (hturn s.hostIn s.transIn s.busData).epilogue

/-- Settles O54, by cases on the kinds of effect a step can have. -/
theorem invariantKept : Obligations.InvariantKept := fun _ _ h hstep => h.stepEffect (step_effect hstep)

end Sys2Proof.Machine
end

section
/-! The fields of STATUS (R15). -/

namespace Sys2Proof.Machine

/-- The four low bits of STATUS, one by one, below its codes (R15). -/
theorem statusWord_eq_concat (s : State) : statusWord s =
    (((((0#21) ++ s.mode.code ++ s.fcause.code).concat false).concat s.fault).concat s.avail).concat s.busy := rfl

/-- Above its four low bits STATUS holds the codes of FCAUSE and MODE, and zeros (R15). -/
theorem statusWord_extractLsb' (s : State) {start : Nat} (h : 4 ≤ start) (len : Nat) :
    (statusWord s).extractLsb' start len = ((0#21) ++ s.mode.code ++ s.fcause.code).extractLsb' (start - 4) len := by
  rw [statusWord, BitVec.extractLsb'_append_eq_of_le (by omega), BitVec.extractLsb'_append_eq_of_le (by omega),
    BitVec.extractLsb'_append_eq_of_le (by omega), BitVec.extractLsb'_append_eq_of_le (by omega)]
  simp only [Nat.sub_sub]

/-- Settles O10, field by field: the low bits one by one, the codes by what stands above them. -/
theorem statusFields : Obligations.StatusFields := by
  unfold Obligations.StatusFields CauseCodes ModeCodes
  refine ⟨by decide, by decide, fun s => ⟨?_, ?_, ?_, ?_, ?_, ?_, ?_⟩⟩
  · rw [statusWord_eq_concat, BitVec.getLsbD_concat_zero]
  · rw [statusWord_eq_concat, BitVec.getLsbD_concat_succ, BitVec.getLsbD_concat_zero]
  · rw [statusWord_eq_concat, BitVec.getLsbD_concat_succ, BitVec.getLsbD_concat_succ, BitVec.getLsbD_concat_zero]
  · rw [statusWord_eq_concat, BitVec.getLsbD_concat_succ, BitVec.getLsbD_concat_succ, BitVec.getLsbD_concat_succ,
      BitVec.getLsbD_concat_zero]
  · rw [statusWord_extractLsb' s (by decide)]
    exact BitVec.extractLsb'_append_eq_right
  · rw [statusWord_extractLsb' s (by decide), BitVec.extractLsb'_append_eq_of_le (by decide)]
    exact BitVec.extractLsb'_append_eq_right
  · rw [statusWord_extractLsb' s (by decide), BitVec.extractLsb'_append_eq_of_le (by decide),
      BitVec.extractLsb'_append_eq_of_le (by decide)]
    rfl

end Sys2Proof.Machine
end

section
/-! The reset state and the reset step (R33, R190, R191). -/

namespace Sys2Proof.Machine

/-- The word of the reset configuration (R20, R33). -/
theorem resetCfg_word : resetCfg.word = 0x601 := by decide

/-- Between block processes a reset completes also where the transport goes on (R191, log entry 11). -/
theorem platformReset_idle {s : State} (hbusy : s.busy = false) : platformReset none s = .next s.resetCore := by
  simp [platformReset, hbusy]

/-- Settles O43: both resets end in `State.resetCore`, whose fields are those of `State.reset`. -/
theorem resetValues : Obligations.ResetValues := by
  refine ⟨?_, fun s ts restarted hturns hbusy => ?_⟩
  · simp [State.reset, resetCfg_word, DelayLine.zero]
  · rw [step_of_turn (nextTurn_cons hturns)]
    cases restarted with
    | some acts =>
      refine ⟨_, rfl, ?_⟩
      simp [State.reset, resetCfg_word, DelayLine.zero]
    | none =>
      refine ⟨_, platformReset_idle (by exact hbusy rfl), ?_⟩
      simp [State.reset, resetCfg_word, DelayLine.zero]

/-- Settles O55, clause by clause, at the reference parameters. -/
theorem invariantAtReset : Obligations.InvariantAtReset where
  left :=
    { par_legal := reference_legal
      ratio_pos := by decide
      rem_lt := by decide
      widx_lt := by decide
      rpos_lt := by decide
      sidx_le := by decide
      dlI_sample := zero_isSample
      dlQ_sample := zero_isSample
      mag_wf := ⟨Memory.wf_nil, Memory.below_nil _⟩
      ph_wf := ⟨Memory.wf_nil, Memory.below_nil _⟩
      blkI_wf := ⟨Memory.wf_nil, Memory.below_nil _⟩
      blkQ_wf := ⟨Memory.wf_nil, Memory.below_nil _⟩
      ph_range := by simp [State.reset]
      fault_cause := by decide
      acqI_busy := rfl
      busy_presentI := by decide
      acqQ_busy := rfl
      busy_mode := by decide
      busy_needsQ := by decide
      idle_sidx := by decide
      held_mutating := by simp [State.reset] }
  right := rfl

end Sys2Proof.Machine
end

section
/-! What a command can do, with one case for each kind of effect: a claim about every command is proved by cases on it. -/

namespace Sys2Proof.Machine

/-- Everything `exec i s` can leave, by the kind of the effect. -/
inductive CommandEffect (s : State) : Instr → State → Prop
  /-- A mutating command issued while BUSY = 1 waits (R176). -/
  | held (i : Instr) (hmutating : i.mutating = true) (hbusy : s.busy = true) : CommandEffect s i { s with held := some i }
  | nothing : CommandEffect s .nop s
  | raiseFault (i : Instr) (c : Cause) (hc : c ≠ .none) : CommandEffect s i (s.raiseFault c)
  | clearFault : CommandEffect s .clrf s.clearFault
  /-- A command of R14 that has no other effect. -/
  | result (i : Instr) (v₀ v₁ : Word) (hlisted : i.writesResult = true) :
      CommandEffect s i { s with res0 := v₀, res1 := v₁ }
  | setmode (m : Mode) (hbusy : s.busy = false) :
      CommandEffect s (.setmode m) (State.clearPipeline { s with mode := m })
  | setcfg (c : Cfg) (hbusy : s.busy = false) : CommandEffect s (.setcfg c) { s with cfg := c }
  | hstep (v₀ v₁ : Word) (hbusy : s.busy = false) :
      CommandEffect s .hstep (((hilbertShift (argSample0 s) (argSample1 s) s).setRes0 v₀).setRes1 v₁)
  | dstep (v : Word) (hbusy : s.busy = false) :
      CommandEffect s .dstep ((decimStep (argSample0 s) (argSample1 s) s).setRes0 v)
  | dpub (hbusy : s.busy = false) : CommandEffect s .dpub (publishPosition s)
  | drain (hbusy : s.busy = false) (hdrains : drains s = true) : CommandEffect s .process (Machine.drain s)
  | prologue (hbusy : s.busy = false) (hdrains : drains s = false) : CommandEffect s .process (Machine.prologue s)

variable {s t : State} {i : Instr}

theorem CommandEffect.of_heldWhileBusy {body : State} (hmutating : i.mutating = true)
    (hbody : s.busy = false → CommandEffect s i body) :
    CommandEffect s i (s.heldWhileBusy i body) := by
  cases hb : s.busy with
  | false => rw [heldWhileBusy_idle hb]; exact hbody hb
  | true => rw [heldWhileBusy_busy hb]; exact .held i hmutating hb

theorem CommandEffect.of_reportRead (hlisted : i.writesResult = true) (k : BitVec 16) (v : Word) :
    CommandEffect s i (reportRead k v s) := by
  rw [reportRead_eq]
  split
  · exact .raiseFault i _ (by decide)
  · exact .result i v s.res1 hlisted

theorem CommandEffect.of_start (hb : s.busy = false) : CommandEffect s .process (start s) := by
  rw [start_eq]
  split
  · next hd => exact .drain hb hd
  · next hd => exact .prologue hb (eq_false_of_ne_true hd)

/-- A command leaves one of these effects; a mutating one is held or has its own (R176). -/
theorem exec_effect (h : exec i s = .next t) : CommandEffect s i t := by
  cases i <;> obtain rfl := Host.Outcome.next.inj h
  case nop => exact .nothing
  case setmode m => exact .of_heldWhileBusy rfl (.setmode m)
  case setcfg c =>
    split
    · exact .raiseFault _ _ (by decide)
    · exact .of_heldWhileBusy rfl (.setcfg c)
  case rdmag k | rdph k => exact .of_reportRead rfl k _
  case clrf => exact .clearFault
  case rdcfg | rddbg => exact .result _ _ _ rfl
  case rdpos | sat16 | abs16 | isqrt | ssbu | ssbl | magf | magf2 | magx | mags | phase => exact .result _ _ s.res1 rfl
  case hstep => exact .of_heldWhileBusy rfl (.hstep _ _)
  case dstep => exact .of_heldWhileBusy rfl (.dstep _)
  case dpub => exact .of_heldWhileBusy rfl .dpub
  case process =>
    split
    · exact .raiseFault _ _ (by decide)
    · next hb => exact .of_start (eq_false_of_ne_true hb)

end Sys2Proof.Machine
end

section
/-! Where a step is refused: the host's and the pipeline's steps never are, the transport's and the reset's in the cases of U9, R31
and U17. -/

namespace Sys2Proof.Machine

variable {s : State}

/-- Every word that is issued has a next state: its cause is recorded or its command executes (R72). -/
theorem issue_next (w : Word) (s : State) : ∃ t, issue w s = .next t := by
  unfold issue
  split
  · exact ⟨_, rfl⟩
  · exact exec_next _ s

theorem hostWrite_next (addr size : Nat) (data : Word) (s : State) : ∃ t, hostWrite addr size data s = .next t := by
  unfold hostWrite
  split
  · exact ⟨_, rfl⟩
  · split
    · exact ⟨_, rfl⟩
    · split
      · exact issue_next data s
      all_goals exact ⟨_, rfl⟩

theorem hostStep_next (s : State) : ∃ t, hostStep s = .next t := by
  unfold hostStep
  split
  · split
    · exact ⟨_, rfl⟩
    · exact exec_next _ _
  · split
    · exact ⟨_, rfl⟩
    · exact ⟨_, rfl⟩
    · exact hostWrite_next _ _ _ _
    · exact ⟨_, rfl⟩

theorem envStep_ne_refused (s : State) (r : Refusal) : envStep s ≠ .refused r := by
  unfold envStep
  dsimp only
  repeat' split
  all_goals simp

theorem ssbStep_ne_refused (sb : Sideband) (s : State) (r : Refusal) : ssbStep sb s ≠ .refused r := by
  unfold ssbStep
  dsimp only
  repeat' split
  all_goals simp

theorem repStep_ne_refused (s : State) (r : Refusal) : repStep s ≠ .refused r := by
  unfold repStep
  split <;> simp

/-- A sample step stops the machine with a fault only, and the epilogue never (log entry 12). -/
theorem pipelineStep_ne_refused (s : State) (r : Refusal) : pipelineStep s ≠ .refused r := by
  unfold pipelineStep sampleStep
  split
  · simp
  · split
    · split
      · simp
      · exact envStep_ne_refused s r
      · exact ssbStep_ne_refused _ s r
      · exact ssbStep_ne_refused _ s r
      · exact repStep_ne_refused s r
    · simp

/-- Only the transport's step and a reset without a restart of the transport are ever refused. -/
theorem step_refused_iff {r : Refusal} : step s = .refused r ↔
    (nextTurn s = some .transport ∧ transportStep { s with turns := s.turns.tail } = .refused r) ∨
      (nextTurn s = some (.reset none) ∧ s.busy = true ∧ r = .transportNotRestarted) := by
  cases ha : nextTurn s with
  | none => simp [step, machineStep, ha]
  | some a =>
    rw [step_of_turn ha]
    cases a with
    | host =>
      obtain ⟨u, hu⟩ := hostStep_next { s with turns := s.turns.tail }
      simp [agentStep, hu]
    | transport => simp [agentStep]
    | pipeline => simp [agentStep, pipelineStep_ne_refused]
    | reset restarted =>
      cases restarted with
      | some acts => simp [agentStep, platformReset]
      | none => cases hb : s.busy <;> simp [agentStep, platformReset, eq_comm (a := r)]

/-- The transport's step is refused by its head action and BUSY alone (R31, R154, U9). -/
theorem transportStep_refused_iff {r : Refusal} : transportStep s = .refused r ↔
    (r = .transportBreach ∧ s.busy = true ∧ ∃ rail, (∃ xs, s.transIn.head? = some (.offer rail xs)) ∨
      s.transIn.head? = some (.withdraw rail)) ∨
    (r = .notABlock ∧ s.busy = false ∧
      ∃ rail xs, s.transIn.head? = some (.offer rail xs) ∧ xs.length ≠ s.par.blockLen) := by
  unfold transportStep
  split
  case h_1 hin => simp [hin]
  case h_2 rest hin =>
    obtain ⟨u, hu⟩ := issue_next tickWord { s with transIn := rest }
    simp [hin, hu]
  case h_3 rail xs rest hin =>
    cases hb : s.busy <;> by_cases hl : xs.length = s.par.blockLen <;> simp [hin, hl, eq_comm (a := r)]
  case h_4 rail rest hin => cases hb : s.busy <;> simp [hin, eq_comm (a := r)]

/-- Settles O57, from who can be refused (`step_refused_iff`) and when (`transportStep_refused_iff`). -/
theorem refusalsAreTheTransports : Obligations.RefusalsAreTheTransports := by
  intro s
  refine ⟨?_, ?_, ?_, ?_⟩
  · simp [step_refused_iff, transportStep_refused_iff]
  · simp [step_refused_iff, transportStep_refused_iff]
  · simp [step_refused_iff, transportStep_refused_iff]
  · intro reason h
    simp only [step_refused_iff, transportStep_refused_iff] at h
    tauto

end Sys2Proof.Machine
end

section
/-! Who writes the registers and flags that the host reads or that select what the pipeline does: one inversion of the step
(`step_registers`), and a claim for each register by cases on it. -/

namespace Sys2Proof.Machine

variable {s t : State} {i : Instr}

/-- `t` has the registers and flags of `s` that the host reads or that select what the pipeline does. -/
structure SameRegisters (s t : State) : Prop where
  par : t.par = s.par := by rfl
  mode : t.mode = s.mode := by rfl
  cfg : t.cfg = s.cfg := by rfl
  rpos : t.rpos = s.rpos := by rfl
  avail : t.avail = s.avail := by rfl
  arg0 : t.arg0 = s.arg0 := by rfl
  arg1 : t.arg1 = s.arg1 := by rfl
  res0 : t.res0 = s.res0 := by rfl
  res1 : t.res1 = s.res1 := by rfl
  busy : t.busy = s.busy := by rfl

/-- `RegisterEffect s t`: what a step from `s` to `t` does to the registers, with who does it. -/
inductive RegisterEffect (s : State) : State → Prop
  | kept (t : State) (ht : SameRegisters s t) : RegisterEffect s t
  | reset (t : State) (ht : SameRegisters s.resetCore t) (hreset : resetsNext s = true) : RegisterEffect s t
  | arg0 (t : State) (ht : SameRegisters { s with arg0 := t.arg0 } t) (hturn : nextTurn s = some .host)
      (hhead : s.hostIn.head? = some (.write (s.par.hostBase + 4) 4 t.arg0)) : RegisterEffect s t
  | arg1 (t : State) (ht : SameRegisters { s with arg1 := t.arg1 } t) (hturn : nextTurn s = some .host)
      (hhead : s.hostIn.head? = some (.write (s.par.hostBase + 8) 4 t.arg1)) : RegisterEffect s t
  /-- A command of R14 other than DSTEP. -/
  | result (t : State) (ht : SameRegisters { s with res0 := t.res0, res1 := t.res1 } t) (i : Instr)
      (hcommand : commandOf s = some i) (hlisted : i.writesResult = true) : RegisterEffect s t
  | setmode (t : State) (m : Mode) (ht : SameRegisters (State.clearPipeline { s with mode := m }) t)
      (hcommand : commandOf s = some (.setmode m)) (hbusy : s.busy = false) : RegisterEffect s t
  | setcfg (t : State) (c : Cfg) (ht : SameRegisters { s with cfg := c } t)
      (hcommand : commandOf s = some (.setcfg c)) (hbusy : s.busy = false) : RegisterEffect s t
  | dstep (t : State) (ht : SameRegisters { s with avail := t.avail, res0 := t.res0 } t)
      (hcommand : commandOf s = some .dstep) (hlatch : s.avail = true → t.avail = true) : RegisterEffect s t
  | dpub (t : State) (ht : SameRegisters { s with rpos := s.widx } t) (hcommand : commandOf s = some .dpub) :
      RegisterEffect s t
  /-- A PROCESS that does not drain. -/
  | prologue (t : State) (ht : SameRegisters { s with busy := true } t) (hcommand : commandOf s = some .process)
      (hsidx : t.sidx = 0) (hacqI : t.acqI = true) : RegisterEffect s t
  | reportSample (t : State) (ht : SameRegisters { s with avail := t.avail } t) (hturn : nextTurn s = some .pipeline)
      (hbusy : s.busy = true) (hmode : s.mode = .report) (hlatch : s.avail = true → t.avail = true) : RegisterEffect s t
  | epilogue (hturn : nextTurn s = some .pipeline) (hbusy : s.busy = true) (hn : s.par.blockLen ≤ s.sidx) :
      RegisterEffect s (Machine.epilogue { s with turns := s.turns.tail })

theorem SameRegisters.refl (s : State) : SameRegisters s s := {}

theorem SameRegisters.trans {u : State} (h₁ : SameRegisters s t) (h₂ : SameRegisters t u) : SameRegisters s u where
  par := h₂.par.trans h₁.par
  mode := h₂.mode.trans h₁.mode
  cfg := h₂.cfg.trans h₁.cfg
  rpos := h₂.rpos.trans h₁.rpos
  avail := h₂.avail.trans h₁.avail
  arg0 := h₂.arg0.trans h₁.arg0
  arg1 := h₂.arg1.trans h₁.arg1
  res0 := h₂.res0.trans h₁.res0
  res1 := h₂.res1.trans h₁.res1
  busy := h₂.busy.trans h₁.busy

theorem SameRegisters.offer (r : Rail) (samples : List Sample) (s : State) :
    SameRegisters s (State.offer r samples s) := by
  cases r <;> exact {}

theorem SameRegisters.withdraw (r : Rail) (s : State) : SameRegisters s (State.withdraw r s) := by
  cases r <;> exact {}

theorem SameRegisters.drain (s : State) : SameRegisters s (drain s) := by
  rw [drain_eq]
  exact {}

theorem SameRegisters.hilbertShift (i q : Sample) (s : State) : SameRegisters s (hilbertShift i q s) := by
  rw [hilbertShift_eq]
  exact {}

theorem SameRegisters.decimStep {u : State} (h : SameRegisters s u) (i q : Sample) :
    SameRegisters { s with avail := (decimStep i q u).avail } (decimStep i q u) := by
  cases hc : completesRun u with
  | false => rw [decimStep_count hc]; exact { h with avail := rfl }
  | true => rw [decimStep_write hc]; exact { h with avail := rfl }

/-- The decimator never clears AVAIL (R121). -/
theorem decimStep_latches (i q : Sample) (s : State) (h : s.avail = true) : (decimStep i q s).avail = true := by
  cases hc : completesRun s with
  | false => rw [decimStep_count hc]; exact h
  | true => rw [decimStep_write hc]; simp [h]

/-- A sample step writes none of the registers, but for AVAIL in REPORT. -/
theorem sampleStep_registers (h : sampleStep s = .next t) :
    SameRegisters s t ∨ s.mode = .report ∧ (s.avail = true → t.avail = true) ∧ SameRegisters { s with avail := t.avail } t := by
  obtain ⟨hI, hn, ⟨hmode, hQ, henv⟩ | ⟨sb, -, -, rfl⟩ | ⟨hmode, -, rfl⟩⟩ := sampleStep_cases h
  case inl =>
    rw [envStep_eq hmode hI hQ hn, Host.Outcome.next.injEq] at henv
    subst henv
    exact .inl {}
  case inr.inl =>
    exact .inl { SameRegisters.hilbertShift _ _ s with }
  case inr.inr =>
    have hdecim := (SameRegisters.refl s).decimStep (Memory.read s.blkI s.sidx) (Memory.read s.blkQ s.sidx)
    exact .inr ⟨hmode, decimStep_latches _ _ s, { hdecim with }⟩

/-- A hold, a fault and a drain leave the registers; every other command is named for what it does to them. `u` is the state
it executes in, where the turn and the agent's action are used up. -/
theorem CommandEffect.registers {u : State} (h : CommandEffect u i t) (hu : SameRegisters s u) (hwidx : u.widx = s.widx)
    (hcommand : commandOf s = some i) : RegisterEffect s t := by
  have hidle (hbusy : u.busy = false) : s.busy = false := hu.busy.symm.trans hbusy
  cases h with
  | held | nothing | raiseFault | clearFault => exact .kept _ { hu with }
  | result _ v₀ v₁ hlisted => exact .result _ { hu with res0 := rfl, res1 := rfl } i hcommand hlisted
  | setmode m hbusy => exact .setmode _ m { hu with mode := rfl, rpos := rfl, avail := rfl } hcommand (hidle hbusy)
  | setcfg c hbusy => exact .setcfg _ c { hu with cfg := rfl } hcommand (hidle hbusy)
  | hstep v₀ v₁ hbusy =>
    have hshift := SameRegisters.hilbertShift (argSample0 u) (argSample1 u) u
    exact .result _ { hu.trans hshift with res0 := rfl, res1 := rfl } .hstep hcommand rfl
  | dstep v hbusy =>
    have hdecim := hu.decimStep (argSample0 u) (argSample1 u)
    exact .dstep _ { hdecim with res0 := rfl } hcommand fun havail => decimStep_latches _ _ u (hu.avail.trans havail)
  | dpub hbusy => exact .dpub _ { hu with rpos := hwidx } hcommand
  | drain hbusy hdrains => exact .kept _ (hu.trans (.drain u))
  | prologue hbusy hdrains =>
    rw [prologue_eq]
    exact .prologue _ { hu with busy := rfl } hcommand rfl rfl

/-- What a step does to the registers, from its kinds of effect. -/
theorem step_registers (h : step s = .next t) : RegisterEffect s t := by
  cases step_effect h with
  | idle | hostFault | hostData => exact .kept _ {}
  | reset acts hreset => exact .reset _ {} hreset
  | resetAlone hreset => exact .reset _ {} hreset
  | command i hi ti hd _ hcommand hheld hexec => exact (exec_effect hexec).registers {} rfl hcommand
  | hostArg0 hi v hturn hhead => exact .arg0 _ {} hturn hhead
  | hostArg1 hi v hturn hhead => exact .arg1 _ {} hturn hhead
  | offer r samples ti => exact .kept _ (SameRegisters.trans {} (.offer r samples _))
  | withdraw r ti => exact .kept _ (SameRegisters.trans {} (.withdraw r _))
  | sample _ hturn hbusy hn hstep =>
    rcases sampleStep_registers hstep with ht | ⟨hmode, hlatch, ht⟩
    · exact .kept _ { ht with }
    · exact .reportSample _ { ht with } hturn hbusy hmode hlatch
  | epilogue hturn hbusy hn => exact .epilogue hturn hbusy hn

/-- SETMODE between block processes (R141). -/
theorem exec_setmode_idle {m : Mode} (hbusy : s.busy = false) :
    exec (.setmode m) s = .next (State.clearPipeline { s with mode := m }) :=
  congrArg Host.Outcome.next (heldWhileBusy_idle hbusy _ _)

/-- A step that clears the pipeline leaves RPOS and AVAIL 0 (R30). -/
theorem step_of_clears (h : step s = .next t) (hclears : clears s) : t.rpos = 0 ∧ t.avail = false := by
  rcases hclears with hreset | ⟨hbusy, m, hcommand⟩
  · obtain ⟨r, hturn⟩ := resetsNext_iff.mp hreset
    rw [step_of_turn hturn] at h
    rcases platformReset_cases h with ⟨_, _, rfl⟩ | ⟨_, _, rfl⟩ <;> exact ⟨rfl, rfl⟩
  · obtain ⟨hi, ti, hd, -, hstep⟩ := step_of_command hcommand
    rw [hstep, exec_setmode_idle (by exact hbusy)] at h
    obtain rfl := Host.Outcome.next.inj h
    exact ⟨rfl, rfl⟩

/-! ### The claims -/

/-- Settles O51, by cases on `step_registers`: no effect on the registers writes the parameters. -/
theorem parametersAreConstant : Obligations.ParametersAreConstant := by
  intro s t h
  cases step_registers h with
  | epilogue => rw [epilogue_eq]
  | _ =>
    rename SameRegisters _ t => ht
    exact ht.par

/-- Settles O44, by cases on `step_registers`: only SETMODE, SETCFG and the reset are named for MODE or CFG. -/
theorem modeMovesBySetmodeOrReset : Obligations.ModeMovesBySetmodeOrReset := by
  intro s t h
  cases step_registers h with
  | reset _ ht hreset =>
    exact ⟨fun _ => .inl ⟨hreset, ht.mode⟩, fun _ => .inl ⟨hreset, (congrArg Cfg.word ht.cfg).trans resetCfg_word⟩⟩
  | setmode _ m ht hcommand hbusy =>
    exact ⟨fun _ => .inr ⟨hbusy, m, hcommand, ht.mode⟩, absurd ht.cfg⟩
  | setcfg _ c ht hcommand hbusy =>
    exact ⟨absurd ht.mode, fun _ => .inr ⟨hbusy, c, hcommand, ht.cfg⟩⟩
  | epilogue => simp [epilogue_eq]
  | _ =>
    rename SameRegisters _ t => ht
    exact ⟨absurd ht.mode, absurd ht.cfg⟩

/-- Settles O47, by cases on `step_registers`: BUSY is set by the prologue alone and cleared by the epilogue and the reset. -/
theorem busyMovesByProcessAndEpilogue : Obligations.BusyMovesByProcessAndEpilogue := by
  intro s t h
  cases step_registers h with
  | reset _ ht hreset => simp [ht.busy, hreset, State.reset]
  | prologue _ ht hcommand hsidx hacqI => simp [ht.busy, hcommand, hsidx, hacqI]
  | epilogue hturn hbusy hn => simp [hbusy, hturn, hn]
  | _ =>
    rename SameRegisters _ t => ht
    have hkept : t.busy = s.busy := ht.busy
    simp +contextual [hkept]

/-- Settles O46, by cases on `step_registers`: only the decimator moves AVAIL upwards, and only a clear downwards. -/
theorem availLatches : Obligations.AvailLatches := by
  intro s t h
  refine ⟨?_, fun hclears => (step_of_clears h hclears).2, ?_⟩
  all_goals cases step_registers h with
  | reset _ ht hreset => simp [clears, hreset, ht.avail, State.reset]
  | setmode _ m ht hcommand hbusy => simp [clears, hcommand, hbusy, ht.avail]
  | dstep _ ht hcommand hlatch => simp +contextual [hcommand, hlatch]
  | reportSample _ ht hturn hbusy hmode hlatch => simp +contextual [hturn, hbusy, hmode, hlatch]
  | epilogue => simp +contextual [epilogue_eq]
  | _ =>
    rename SameRegisters _ t => ht
    have hkept : t.avail = s.avail := ht.avail
    simp +contextual [hkept]

/-- Settles O48, by cases on `step_registers`: RPOS takes WIDX in DPUB and in the epilogue of REPORT, and 0 in a clear. -/
theorem positionWrittenAtPublish : Obligations.PositionWrittenAtPublish := by
  intro s t h hmoved
  cases step_registers h with
  | reset _ ht hreset => exact .inl ⟨.inl hreset, ht.rpos⟩
  | setmode _ m ht hcommand hbusy => exact .inl ⟨.inr ⟨hbusy, m, hcommand⟩, ht.rpos⟩
  | dpub _ ht hcommand => exact .inr ⟨ht.rpos, .inl hcommand⟩
  | epilogue hturn hbusy =>
    simp only [epilogue_eq] at hmoved ⊢
    split at hmoved
    · next hmode => exact .inr ⟨if_pos hmode, .inr ⟨hturn, hbusy, hmode, trivial⟩⟩
    · exact absurd rfl hmoved
  | _ =>
    rename SameRegisters _ t => ht
    exact absurd ht.rpos hmoved

/-- Settles O49, by cases on `step_registers`: the host's two argument writes and the reset. -/
theorem argumentsWrittenByHost : Obligations.ArgumentsWrittenByHost := by
  intro s t h
  cases step_registers h with
  | reset _ ht hreset => exact ⟨fun _ => .inl hreset, fun _ => .inl hreset⟩
  | arg0 _ ht hturn hhead => exact ⟨fun _ => .inr ⟨hturn, hhead⟩, absurd ht.arg1⟩
  | arg1 _ ht hturn hhead => exact ⟨absurd ht.arg0, fun _ => .inr ⟨hturn, hhead⟩⟩
  | epilogue => simp [epilogue_eq]
  | _ =>
    rename SameRegisters _ t => ht
    exact ⟨absurd ht.arg0, absurd ht.arg1⟩

/-- Settles O50, by cases on `step_registers`: the commands of R14, DSTEP among them, and the reset. -/
theorem resultsWrittenByListedCommands : Obligations.ResultsWrittenByListedCommands := by
  intro s t h hmoved
  cases step_registers h with
  | reset _ ht hreset => exact .inl hreset
  | result _ ht i hcommand hlisted => exact .inr ⟨i, hcommand, hlisted⟩
  | dstep _ ht hcommand => exact .inr ⟨.dstep, hcommand, rfl⟩
  | epilogue => simp [epilogue_eq] at hmoved
  | _ =>
    rename SameRegisters _ t => ht
    exact hmoved.elim (absurd ht.res0) (absurd ht.res1)

end Sys2Proof.Machine
end

section
/-! Port H (R40, R41): what an access does outside the window, at each register, and everywhere else in the window. -/

namespace Sys2Proof.Machine

variable {s : State} {ts : List Turn} {rest : List HostAct} {addr size k : Nat} {v : Word}

/-! ### The host's turn -/

/-- On its turn, and not held, the host makes the read that comes first in its program (R50). -/
theorem step_of_read (hturns : s.turns = .host :: ts) (hheld : s.held = none) (hin : s.hostIn = .read addr size :: rest) :
    step s = .next (hostRead addr size { s with hostIn := rest, turns := ts }) := by
  simp [step_of_turn (nextTurn_cons hturns), agentStep, hostStep, hheld, hin, hturns]

/-- On its turn, and not held, the host makes the write that comes first in its program (R50). -/
theorem step_of_write (hturns : s.turns = .host :: ts) (hheld : s.held = none)
    (hin : s.hostIn = .write addr size v :: rest) :
    step s = hostWrite addr size v { s with hostIn := rest, turns := ts } := by
  simp [step_of_turn (nextTurn_cons hturns), agentStep, hostStep, hheld, hin, hturns]

/-! ### Reads -/

theorem hostRead_outside (h : ¬(s.par.hostBase ≤ addr ∧ addr < s.par.hostBase + 32)) : hostRead addr size s = s := by
  simp only [hostRead, windowOffset_outside h]

theorem hostRead_legal (hk : k < 32) (h : portRead s k size = some v) :
    hostRead (s.par.hostBase + k) size s = { s with busData := v } := by
  simp only [hostRead, windowOffset_inside s hk, h]

theorem hostRead_illegal (hk : k < 32) (h : portRead s k size = none) :
    hostRead (s.par.hostBase + k) size s = { s.raiseFault .badAccess with busData := 0 } := by
  simp only [hostRead, windowOffset_inside s hk, h]

/-! ### Writes -/

theorem hostWrite_outside (h : ¬(s.par.hostBase ≤ addr ∧ addr < s.par.hostBase + 32)) :
    hostWrite addr size v s = .next s := by
  simp only [hostWrite, windowOffset_outside h]

theorem hostWrite_cmd : hostWrite s.par.hostBase 4 v s = issue v s := by
  have hoff : windowOffset s s.par.hostBase = some 0 := windowOffset_inside s (k := 0) (by decide)
  simp [hostWrite, hoff, PortReg.at?]

theorem hostWrite_arg0 : hostWrite (s.par.hostBase + 0x04) 4 v s = .next { s with arg0 := v } := by
  simp [hostWrite, windowOffset_inside, PortReg.at?]

theorem hostWrite_arg1 : hostWrite (s.par.hostBase + 0x08) 4 v s = .next { s with arg1 := v } := by
  simp [hostWrite, windowOffset_inside, PortReg.at?]

/-- A register is found at its own offset and nowhere else (R40). -/
theorem PortReg.at?_eq_some {r : PortReg} : PortReg.at? k = some r ↔ k = r.offset := by
  constructor
  · unfold PortReg.at?
    split <;> rintro ⟨⟩ <;> rfl
  · rintro rfl
    cases r <;> rfl

/-- A write that is no whole word, or at an offset that holds no writable register, is illegal (R41). -/
theorem hostWrite_illegal (hk : k < 32) (h : ¬(size = 4 ∧ (k = 0x00 ∨ k = 0x04 ∨ k = 0x08))) :
    hostWrite (s.par.hostBase + k) size v s = .next (s.raiseFault .badAccess) := by
  simp only [hostWrite, windowOffset_inside s hk]
  split
  · rfl
  · next hsize =>
    have hwritable : ¬(k = 0x00 ∨ k = 0x04 ∨ k = 0x08) := fun hreg => h ⟨not_not.mp hsize, hreg⟩
    split
    case h_1 hat => exact absurd (.inl (PortReg.at?_eq_some.mp hat)) hwritable
    case h_2 hat => exact absurd (.inr (.inl (PortReg.at?_eq_some.mp hat))) hwritable
    case h_3 hat => exact absurd (.inr (.inr (PortReg.at?_eq_some.mp hat))) hwritable
    all_goals rfl

/-! ### The claim -/

/-- Settles O9: the step is the host's access, and each access is outside the window, at a register's offset, or illegal. -/
theorem portAccess : Obligations.PortAccess := by
  intro s ts rest addr size v hturns hheld base u bad inside
  constructor <;> intro hin
  · rw [step_of_read hturns hheld hin]
    refine ⟨fun hout => ⟨s.busData, congrArg _ (hostRead_outside hout)⟩, ?_, ?_, ?_, ?_, ?_, ?illegal⟩
    case illegal =>
      rintro ⟨hlow, hhigh⟩ hillegal
      obtain ⟨k, rfl⟩ := Nat.exists_eq_add_of_le hlow
      refine congrArg _ (hostRead_illegal (s := u) (Nat.lt_of_add_lt_add_left hhigh) (portRead_eq_none ?_))
      simpa using hillegal
    all_goals
      rintro rfl rfl
      exact congrArg _ (hostRead_legal (s := u) (by decide) rfl)
  · rw [step_of_write hturns hheld hin]
    refine ⟨hostWrite_outside (s := u), ?_, ?_, ?_, ?_⟩
    · rintro rfl rfl; exact hostWrite_cmd (s := u)
    · rintro rfl rfl; exact hostWrite_arg0 (s := u)
    · rintro rfl rfl; exact hostWrite_arg1 (s := u)
    · rintro ⟨hlow, hhigh⟩ hillegal
      obtain ⟨k, rfl⟩ := Nat.exists_eq_add_of_le hlow
      refine hostWrite_illegal (s := u) (Nat.lt_of_add_lt_add_left hhigh) ?_
      simpa using hillegal

end Sys2Proof.Machine
end

section
/-! A legal state is safe (R44): in a block process the blocks its mode needs are held, so each sample step's element accesses are
legal; no other step can fault. -/

namespace Sys2Proof.Machine

variable {s : State}

/-- A block process holds the I block (R156). -/
theorem Inv.acqI_of_busy (h : Inv s) (hb : s.busy = true) : s.acqI = true := h.acqI_busy.trans hb

/-- A block process holds the Q block where its mode needs it (R149, R156). -/
theorem Inv.acqQ_of_needsQ (h : Inv s) (hb : s.busy = true) (hneeds : needsQ s.mode s.cfg.rails = true) : s.acqQ = true := by
  rw [h.acqQ_busy, hb, h.busy_needsQ hb hneeds]
  rfl

/-- In the SSB modes the Q block is held in dual rail, the only case where the step reads it (R158). -/
theorem Inv.ssbStep_next (h : Inv s) (hb : s.busy = true) (hn : s.sidx < s.par.blockLen) (sb : Sideband)
    (hpublishes : publishes s.mode = true) (hneeds : needsQ s.mode s.cfg.rails = !s.cfg.rails) :
    ∃ t, ssbStep sb s = .next t :=
  ⟨_, ssbStep_eq sb hpublishes (h.acqI_of_busy hb)
    (fun hrails => h.acqQ_of_needsQ hb (by rw [hneeds, hrails]; rfl)) hn⟩

/-- The sample step of a block process has a next state in every mode (R44, R157 to R159). -/
theorem Inv.sampleStep_next (h : Inv s) (hb : s.busy = true) (hn : s.sidx < s.par.blockLen) :
    ∃ t, Machine.sampleStep s = .next t := by
  have hI := h.acqI_of_busy hb
  unfold Machine.sampleStep
  split
  case h_1 hmode => exact absurd hmode (h.busy_mode hb)
  case h_2 hmode => exact ⟨_, envStep_eq hmode hI (h.acqQ_of_needsQ hb (by rw [hmode]; rfl)) hn⟩
  case h_3 hmode | h_4 hmode => exact h.ssbStep_next hb hn _ (by rw [hmode]; rfl) (by rw [hmode]; rfl)
  case h_5 hmode => exact ⟨_, repStep_eq hI (h.acqQ_of_needsQ hb (by rw [hmode]; rfl)) hn⟩

theorem Inv.pipelineStep_next (h : Inv s) : ∃ t, pipelineStep s = .next t := by
  unfold pipelineStep
  split
  · exact ⟨_, rfl⟩
  · next hb =>
    split
    · next hn => exact h.sampleStep_next (by simpa using hb) hn
    · exact ⟨_, rfl⟩

/-- The transport's step is refused or has a next state. -/
theorem transportStep_ne_fault (s : State) (r : Fault) : transportStep s ≠ .fault r := by
  unfold transportStep
  split
  case h_1 => simp
  case h_2 rest _ =>
    obtain ⟨t, ht⟩ := issue_next tickWord { s with transIn := rest }
    simp [ht]
  case h_3 | h_4 => split_ifs <;> simp

/-- The reset's step is refused or has a next state. -/
theorem platformReset_ne_fault (restarted : Option (List TransportAct)) (s : State) (r : Fault) :
    platformReset restarted s ≠ .fault r := by
  cases restarted with
  | some acts => simp [platformReset]
  | none => cases hb : s.busy <;> simp [platformReset, hb]

/-- Settles O56, by cases on whose step it is: the pipeline alone can fault, and in a legal state it has a next state. -/
theorem legalStatesAreSafe : Obligations.LegalStatesAreSafe := by
  intro s h r
  cases hturn : nextTurn s with
  | none => simp [step, machineStep, hturn]
  | some a =>
    rw [step_of_turn hturn]
    cases a with
    | host =>
      obtain ⟨t, ht⟩ := hostStep_next { s with turns := s.turns.tail }
      simp [agentStep, ht]
    | transport => exact transportStep_ne_fault _ r
    | pipeline =>
      obtain ⟨t, ht⟩ := (h.agents s.turns.tail s.hostIn s.transIn s.busData).pipelineStep_next
      simp [agentStep, ht]
    | reset restarted => exact platformReset_ne_fault restarted _ r

end Sys2Proof.Machine
end

section
/-! Decode and encode are inverse to each other (R61 to R71). The operand formats have the fields that `decode` reads, an operand
is determined by those fields, and `decode_cases` says what `decode` answers on every word. -/

namespace Sys2Proof

/-! ### The fields of an operand -/

/-- Two operands that agree on a field agree on each bit of it. -/
theorem getLsbD_of_extractLsb'_eq {x y : BitVec 24} {start len n : Nat}
    (h : x.extractLsb' start len = y.extractLsb' start len) (hlow : start ≤ n) (hhigh : n < start + len) :
    x.getLsbD n = y.getLsbD n := by
  obtain ⟨k, rfl⟩ := Nat.exists_eq_add_of_le hlow
  have hk : k < len := by omega
  have hbit := congrArg (fun field => field.getLsbD k) h
  simpa [hk] using hbit

/-- An operand of format M or X is determined by its value field and the reserved bits above it (R62). -/
theorem operand_ext_two_fields {x y : BitVec 24} (k : Nat) (hlow : x.extractLsb' 0 k = y.extractLsb' 0 k)
    (hhigh : x.extractLsb' k (24 - k) = y.extractLsb' k (24 - k)) : x = y := by
  apply BitVec.eq_of_getLsbD_eq
  intro n hn
  by_cases hk : n < k
  · exact getLsbD_of_extractLsb'_eq hlow (by omega) (by omega)
  · exact getLsbD_of_extractLsb'_eq hhigh (by omega) (by omega)

/-- An operand of format C is determined by its six fields and its two groups of reserved bits (R62, R63). -/
theorem operand_ext_config {x y : BitVec 24} (hmagsel : x.extractLsb' 0 2 = y.extractLsb' 0 2)
    (hflags : ∀ n, 2 ≤ n → n < 6 → flagAt x n = flagAt y n) (hgap : x.extractLsb' 6 2 = y.extractLsb' 6 2)
    (hratio : x.extractLsb' 8 4 = y.extractLsb' 8 4) (htop : x.extractLsb' 12 12 = y.extractLsb' 12 12) : x = y := by
  apply BitVec.eq_of_getLsbD_eq
  intro n hn
  by_cases h2 : n < 2
  · exact getLsbD_of_extractLsb'_eq hmagsel (by omega) (by omega)
  by_cases h6 : n < 6
  · exact hflags n (by omega) h6
  by_cases h8 : n < 8
  · exact getLsbD_of_extractLsb'_eq hgap (by omega) (by omega)
  by_cases h12 : n < 12
  · exact getLsbD_of_extractLsb'_eq hratio (by omega) (by omega)
  · exact getLsbD_of_extractLsb'_eq htop (by omega) (by omega)

/-- The fields of a SETMODE operand (R66). -/
theorem mode_fields (m : Mode) : (operandOf (.setmode m)).extractLsb' 3 21 = 0 ∧
    (operandOf (.setmode m)).extractLsb' 0 3 = m.code :=
  ⟨BitVec.extractLsb'_append_eq_left, BitVec.extractLsb'_append_eq_right⟩

/-- The fields of the CFG word (R20). -/
theorem cfg_word_fields (c : Cfg) : c.word.extractLsb' 0 2 = c.magsel.code ∧ c.word.extractLsb' 6 2 = 0 ∧
    c.word.extractLsb' 8 4 = c.ratio := by
  unfold Cfg.word
  refine ⟨BitVec.extractLsb'_append_eq_right, ?_, ?_⟩ <;>
    repeat rw [BitVec.extractLsb'_append_eq_of_le (by decide)]
  · exact BitVec.extractLsb'_append_eq_right
  · exact BitVec.extractLsb'_eq_self

/-- The four flags of the CFG word (R20). -/
theorem cfg_word_flags (c : Cfg) : c.word.getLsbD 2 = c.hsel ∧ c.word.getLsbD 3 = c.rails ∧ c.word.getLsbD 4 = c.envdec ∧
    c.word.getLsbD 5 = c.envzs := by
  simp only [Cfg.word, BitVec.getLsbD_append]
  simp

/-- The fields of a SETCFG operand (R63). -/
theorem config_fields (c : Cfg) : (operandOf (.setcfg c)).extractLsb' 0 2 = c.magsel.code ∧
    (operandOf (.setcfg c)).extractLsb' 6 2 = 0 ∧ (operandOf (.setcfg c)).extractLsb' 8 4 = c.ratio ∧
    (operandOf (.setcfg c)).extractLsb' 12 12 = 0 := by
  have hword : ∀ start len, start + len ≤ 12 →
      (operandOf (.setcfg c)).extractLsb' start len = c.word.extractLsb' start len :=
    fun _ _ => BitVec.extractLsb'_append_eq_of_add_le
  obtain ⟨hmagsel, hgap, hratio⟩ := cfg_word_fields c
  exact ⟨(hword 0 2 (by decide)).trans hmagsel, (hword 6 2 (by decide)).trans hgap, (hword 8 4 (by decide)).trans hratio,
    BitVec.extractLsb'_append_eq_left⟩

/-- The four flags of a SETCFG operand (R63). -/
theorem config_flags (c : Cfg) : flagAt (operandOf (.setcfg c)) 2 = c.hsel ∧ flagAt (operandOf (.setcfg c)) 3 = c.rails ∧
    flagAt (operandOf (.setcfg c)) 4 = c.envdec ∧ flagAt (operandOf (.setcfg c)) 5 = c.envzs := by
  have hword : ∀ n, n < 12 → flagAt (operandOf (.setcfg c)) n = c.word.getLsbD n :=
    fun n hn => BitVec.getLsbD_append.trans (if_pos hn)
  rw [hword 2 (by decide), hword 3 (by decide), hword 4 (by decide), hword 5 (by decide)]
  exact cfg_word_flags c

/-- An operand with clear reserved bits is that of the configuration that has its fields (R63). -/
theorem operandOf_setcfg {opr : BitVec 24} {c : Cfg} (htop : opr.extractLsb' 12 12 = 0) (hgap : opr.extractLsb' 6 2 = 0)
    (hmagsel : c.magsel.code = opr.extractLsb' 0 2) (hhsel : c.hsel = flagAt opr 2) (hrails : c.rails = flagAt opr 3)
    (henvdec : c.envdec = flagAt opr 4) (henvzs : c.envzs = flagAt opr 5) (hratio : c.ratio = opr.extractLsb' 8 4) :
    operandOf (.setcfg c) = opr := by
  obtain ⟨hmagsel', hgap', hratio', htop'⟩ := config_fields c
  obtain ⟨hhsel', hrails', henvdec', henvzs'⟩ := config_flags c
  refine operand_ext_config (hmagsel'.trans hmagsel) (fun n hlow hhigh => ?_) (hgap'.trans hgap.symm) (hratio'.trans hratio)
    (htop'.trans htop.symm)
  interval_cases n
  · exact hhsel'.trans hhsel
  · exact hrails'.trans hrails
  · exact henvdec'.trans henvdec
  · exact henvzs'.trans henvzs

/-! ### The format of an opcode -/

/-- One command for each opcode (R67). -/
def commandOfEachOpcode : List Instr :=
  [.nop, .setmode .idle, .setcfg Machine.resetCfg, .rdcfg, .rdpos, .rdmag 0, .rdph 0, .rddbg, .clrf, .sat16, .abs16, .isqrt,
    .ssbu, .ssbl, .magf, .magf2, .magx, .mags, .phase, .hstep, .dstep, .dpub, .process]

/-- The opcodes of the opcode map (R67). -/
def opcodes : List (BitVec 8) := commandOfEachOpcode.map opcodeOf

theorem mem_opcodes {opc : BitVec 8} (h : opc ∈ opcodes) : ∃ i, opcodeOf i = opc := by
  obtain ⟨i, -, hi⟩ := List.mem_map.mp h
  exact ⟨i, hi⟩

/-- How `decode` reads an operand under the opcode of a command (R62). -/
def decodeOperand : Instr → BitVec 24 → Except Cause Instr
  | .setmode _ => decodeMode
  | .setcfg _ => decodeConfig
  | .rdmag _ => decodeIndex .rdmag
  | .rdph _ => decodeIndex .rdph
  | i => decodeBare i

/-- Under a listed opcode the format decides (R70). -/
theorem decode_of_opcode (i : Instr) (opr : BitVec 24) : decode (opcodeOf i ++ opr) = decodeOperand i opr := by
  rw [decode, opcodeField_append, operandField_append]
  cases i <;> rfl

/-- Every other opcode is illegal (R68, R70). -/
theorem decode_unknown {opc : BitVec 8} (h : opc ∉ opcodes) (opr : BitVec 24) :
    decode (opc ++ opr) = .error .illegalOpcode := by
  have hcode : opc.toNat ∉ opcodes.map BitVec.toNat := fun hmem => by
    obtain ⟨known, hknown, heq⟩ := List.mem_map.mp hmem
    exact h (BitVec.eq_of_toNat_eq heq ▸ hknown)
  rw [decode, opcodeField_append]
  split
  case h_24 => rfl
  all_goals
    next heq =>
      rw [heq] at hcode
      exact absurd (by decide) hcode

/-! ### The verdict on every word -/

/-- A reserved operand bit is set, in the format of the opcode (R62). -/
def ReservedSet (opc : BitVec 8) (opr : BitVec 24) : Prop :=
  if opc = 0x01 then opr.extractLsb' 3 21 ≠ 0
  else if opc = 0x02 then opr.extractLsb' 12 12 ≠ 0 ∨ opr.extractLsb' 6 2 ≠ 0
  else if opc = 0x05 ∨ opc = 0x06 then opr.extractLsb' 16 8 ≠ 0
  else opr ≠ 0

/-- An operand field holds an illegal value (R68, case 3). -/
def IllegalField (opc : BitVec 8) (opr : BitVec 24) : Prop :=
  (opc = 0x01 ∧ 4 < (opr.extractLsb' 0 3).toNat) ∨
    (opc = 0x02 ∧ (opr.extractLsb' 0 2 = 3 ∨ opr.extractLsb' 8 4 = 0))

/-- What `decode` answers under a listed opcode, with the reason: the causes in the order of R70, or the one well-formed command
that has this word. -/
inductive OperandVerdict (opc : BitVec 8) (opr : BitVec 24) : Except Cause Instr → Prop
  | reserved (hreserved : ReservedSet opc opr) : OperandVerdict opc opr (.error .reservedNonzero)
  | illegal (hclear : ¬ReservedSet opc opr) (hfield : IllegalField opc opr) :
      OperandVerdict opc opr (.error .illegalValue)
  | command (i : Instr) (hclear : ¬ReservedSet opc opr) (hlegal : ¬IllegalField opc opr) (hwf : i.wf = true)
      (hopcode : opcodeOf i = opc) (hoperand : operandOf i = opr) : OperandVerdict opc opr (.ok i)

/-- The verdict on a command without operand fields (R62, formats N and R). -/
theorem operandVerdict_bare {i : Instr} {opr : BitVec 24} (hwf : i.wf = true) (hoperand : operandOf i = 0)
    (hreserved : ReservedSet (opcodeOf i) opr ↔ opr ≠ 0) (hlegal : ¬IllegalField (opcodeOf i) opr) :
    OperandVerdict (opcodeOf i) opr (decodeBare i opr) := by
  rcases decodeBare_cases i opr with ⟨hne, hdec⟩ | ⟨rfl, hdec⟩ <;> rw [hdec]
  · exact .reserved (hreserved.mpr hne)
  · exact .command i (fun h => hreserved.mp h rfl) hlegal hwf rfl hoperand

/-- The verdict on a SETMODE word (R66). -/
theorem operandVerdict_mode (opr : BitVec 24) : OperandVerdict 0x01 opr (decodeMode opr) := by
  have hreserved : ReservedSet 0x01 opr ↔ opr.extractLsb' 3 21 ≠ 0 := by simp [ReservedSet]
  have hfield : IllegalField 0x01 opr ↔ 4 < (opr.extractLsb' 0 3).toNat := by simp [IllegalField]
  rcases decodeMode_cases opr with ⟨hne, hdec⟩ | ⟨hclear, hbad, hdec⟩ | ⟨hclear, hok, m, hm, hdec⟩ <;> rw [hdec]
  · exact .reserved (hreserved.mpr hne)
  · exact .illegal (fun h => hreserved.mp h hclear) (hfield.mpr hbad)
  · obtain ⟨htop, hcode⟩ := mode_fields m
    exact .command _ (fun h => hreserved.mp h hclear) (fun h => absurd (hfield.mp h) (by omega)) rfl rfl
      (operand_ext_two_fields 3 (hcode.trans hm) (htop.trans hclear.symm))

/-- The verdict on a SETCFG word (R63). -/
theorem operandVerdict_config (opr : BitVec 24) : OperandVerdict 0x02 opr (decodeConfig opr) := by
  have hreserved : ReservedSet 0x02 opr ↔ opr.extractLsb' 12 12 ≠ 0 ∨ opr.extractLsb' 6 2 ≠ 0 := by simp [ReservedSet]
  have hfield : IllegalField 0x02 opr ↔ opr.extractLsb' 0 2 = 3 ∨ opr.extractLsb' 8 4 = 0 := by simp [IllegalField]
  rcases decodeConfig_cases opr with ⟨hne, hdec⟩ | ⟨hclear, ⟨hbad, hdec⟩ | ⟨hok, a, ha, hdec⟩⟩ <;> rw [hdec]
  · exact .reserved (hreserved.mpr hne)
  · exact .illegal (mt hreserved.mp hclear) (hfield.mpr hbad)
  · obtain ⟨htop, hgap⟩ : opr.extractLsb' 12 12 = 0 ∧ opr.extractLsb' 6 2 = 0 := by simpa using hclear
    refine .command _ (mt hreserved.mp hclear) (mt hfield.mp hok) (by simpa [Instr.wf, Cfg.wf] using (not_or.mp hok).2) rfl
      (operandOf_setcfg htop hgap ha rfl rfl rfl rfl rfl)

/-- The verdict on a RDMAG or RDPH word (R65). -/
theorem operandVerdict_index {opc : BitVec 8} {mk : BitVec 16 → Instr} (hopc : opc = 0x05 ∨ opc = 0x06)
    (hopcode : ∀ k, opcodeOf (mk k) = opc) (hoperand : ∀ k, operandOf (mk k) = (0#8) ++ k) (hwf : ∀ k, (mk k).wf = true)
    (opr : BitVec 24) : OperandVerdict opc opr (decodeIndex mk opr) := by
  have hreserved : ReservedSet opc opr ↔ opr.extractLsb' 16 8 ≠ 0 := by rcases hopc with rfl | rfl <;> simp [ReservedSet]
  have hlegal : ¬IllegalField opc opr := by rcases hopc with rfl | rfl <;> simp [IllegalField]
  rcases decodeIndex_cases mk opr with ⟨hne, hdec⟩ | ⟨hclear, hdec⟩ <;> rw [hdec]
  · exact .reserved (hreserved.mpr hne)
  · obtain ⟨htop, hindex⟩ := index_fields (opr.extractLsb' 0 16)
    exact .command _ (fun h => hreserved.mp h hclear) hlegal (hwf _) (hopcode _)
      ((hoperand _).trans (operand_ext_two_fields 16 hindex (htop.trans hclear.symm)))

/-- Under a listed opcode `decode` gives its verdict (R70). -/
theorem operandVerdict (i : Instr) (opr : BitVec 24) : OperandVerdict (opcodeOf i) opr (decodeOperand i opr) := by
  cases i with
  | setmode m => exact operandVerdict_mode opr
  | setcfg c => exact operandVerdict_config opr
  | rdmag k => exact operandVerdict_index (.inl rfl) (fun _ => rfl) (fun _ => rfl) (fun _ => rfl) opr
  | rdph k => exact operandVerdict_index (.inr rfl) (fun _ => rfl) (fun _ => rfl) (fun _ => rfl) opr
  | _ => exact operandVerdict_bare rfl rfl Iff.rfl (by simp [IllegalField, opcodeOf])

/-- What `decode` answers on every word: the opcode is not listed, or its format's verdict (R70, R71). -/
theorem decode_cases (opc : BitVec 8) (opr : BitVec 24) :
    opc ∉ opcodes ∧ decode (opc ++ opr) = .error .illegalOpcode ∨
      opc ∈ opcodes ∧ OperandVerdict opc opr (decode (opc ++ opr)) := by
  by_cases h : opc ∈ opcodes
  · obtain ⟨i, rfl⟩ := mem_opcodes h
    exact .inr ⟨h, by rw [decode_of_opcode]; exact operandVerdict i opr⟩
  · exact .inl ⟨h, decode_unknown h opr⟩

/-! ### Decode after encode -/

theorem decodeBare_zero (i : Instr) : decodeBare i 0 = .ok i := if_pos rfl

theorem decodeMode_operandOf (m : Mode) : decodeMode (operandOf (.setmode m)) = .ok (.setmode m) := by
  obtain ⟨htop, hcode⟩ := mode_fields m
  simp [decodeMode, htop, hcode]

theorem decodeConfig_operandOf {c : Cfg} (h : c.ratio ≠ 0#4) : decodeConfig (operandOf (.setcfg c)) = .ok (.setcfg c) := by
  obtain ⟨hmagsel, hgap, hratio, htop⟩ := config_fields c
  obtain ⟨h2, h3, h4, h5⟩ := config_flags c
  simp [decodeConfig, htop, hgap, hmagsel, hratio, h, h2, h3, h4, h5]

theorem decodeIndex_append (mk : BitVec 16 → Instr) (k : BitVec 16) : decodeIndex mk ((0#8) ++ k) = .ok (mk k) := by
  obtain ⟨htop, hindex⟩ := index_fields k
  simp [decodeIndex, htop, hindex]

/-! ### The claims -/

/-- Settles O1, by the operand format of the command. -/
theorem decodeOfEncode : Obligations.DecodeOfEncode := by
  intro i hwf
  rw [encode, decode_of_opcode]
  cases i with
  | setmode m => exact decodeMode_operandOf m
  | setcfg c => exact decodeConfig_operandOf (by simpa [Instr.wf, Cfg.wf] using hwf)
  | rdmag k | rdph k => exact decodeIndex_append _ k
  | _ => exact decodeBare_zero _

/-- Settles O2: of the verdicts on a word, only the one for its own command is no cause. -/
theorem encodeOfDecode : Obligations.EncodeOfDecode := by
  intro w i h
  rw [← word_split w] at h ⊢
  rcases decode_cases (opcodeField w) (operandField w) with ⟨-, hdec⟩ | ⟨-, hverdict⟩
  · rw [hdec] at h
    cases h
  · rw [h] at hverdict
    cases hverdict with
    | command _ _ _ hwf hopcode hoperand => exact ⟨hwf, by rw [encode, hopcode, hoperand]⟩

/-- Settles O3: the verdict of `decode_cases` has the premise of one of the four clauses, and contradicts those of the others. -/
theorem decodeVerdict : Obligations.DecodeVerdict := by
  intro opc opr known reserved badValue
  change (opc ∉ opcodes → _) ∧ (opc ∈ opcodes → ReservedSet opc opr → _) ∧
    (opc ∈ opcodes → ¬ReservedSet opc opr → IllegalField opc opr → _) ∧
    (opc ∈ opcodes → ¬ReservedSet opc opr → ¬IllegalField opc opr → _)
  rcases decode_cases opc opr with ⟨hunknown, hdec⟩ | ⟨hknown, hverdict⟩
  · simp [hunknown, hdec]
  · generalize decode (opc ++ opr) = verdict at hverdict ⊢
    cases hverdict with
    | reserved hreserved => simp [hknown, hreserved]
    | illegal hclear hfield => simp [hknown, hclear, hfield]
    | command i hclear hlegal => simp [hknown, hclear, hlegal]

/-- Settles O4: the words of R76 are those of `encode`, and O1 decodes them. -/
theorem encodingExamples : Obligations.EncodingExamples :=
  ⟨rfl, decodeOfEncode (.setmode .report) rfl, rfl, decodeOfEncode (.setcfg ⟨.fast2, false, false, false, false, 6⟩) rfl,
    rfl, decodeOfEncode (.rdmag 5) rfl, rfl, decodeOfEncode .magf rfl, rfl, decodeOfEncode .process rfl, rfl⟩

end Sys2Proof
end

section
/-! A word that comes in at CMD or with a TICK: the step runs the command it decodes to, or records the decoder's cause. -/

namespace Sys2Proof.Machine

variable {s : State} {ts : List Turn} {rest : List HostAct} {w : Word}

/-- A word that decodes is executed (R72). -/
theorem issue_of_ok {i : Instr} (h : decode w = .ok i) : issue w s = exec i s := by rw [issue, h]

/-- An illegal word records its cause (R72). -/
theorem issue_of_error {c : Cause} (h : decode w = .error c) : issue w s = .next (s.raiseFault c) := by rw [issue, h]

/-- The host's whole-word write of CMD issues the word, the access and the turn used up (R60). -/
theorem step_of_cmd_write (hturns : s.turns = .host :: ts) (hheld : s.held = none)
    (hin : s.hostIn = .write s.par.hostBase 4 w :: rest) :
    step s = issue w { s with hostIn := rest, turns := ts } :=
  (step_of_write hturns hheld hin).trans (hostWrite_cmd (s := { s with hostIn := rest, turns := ts }))

/-- Settles O5: the write issues the word, which decodes. -/
theorem stepRunsHostCommand : Obligations.StepRunsHostCommand := by
  intro s ts rest w i hturns hheld hin hdecode
  rw [step_of_cmd_write hturns hheld hin, issue_of_ok hdecode]

/-- Settles O6: the transport's action is the TICK, which issues PROCESS. -/
theorem stepRunsTick : Obligations.StepRunsTick := by
  intro s ts rest hturns hin
  simp [step_of_turn (nextTurn_cons hturns), agentStep, transportStep, hin, hturns, issue_tick]

/-- Settles O8: the write issues the word, which does not decode. -/
theorem illegalWordOnlyRecordsCause : Obligations.IllegalWordOnlyRecordsCause := by
  intro s ts rest w c hturns hheld hin hdecode
  rw [step_of_cmd_write hturns hheld hin, issue_of_error hdecode]
  rfl

end Sys2Proof.Machine
end

section
/-! What each class of command may write (R73). -/

namespace Sys2Proof.Machine

variable {s t : State} {i : Instr}

/-- `t` is `s` but for the results and the fault: what a command that is neither mutating nor PROCESS may write (R73). -/
def ResultFrame (s t : State) : Prop :=
  t = { s with res0 := t.res0, res1 := t.res1, fault := t.fault, fcause := t.fcause }

/-- `t` is `s` but for the configuration, the pipeline and the results: what a mutating command may write (R73). -/
def PipelineFrame (s t : State) : Prop :=
  t = { s with
    mode := t.mode
    cfg := t.cfg
    dlI := t.dlI
    dlQ := t.dlQ
    rem := t.rem
    widx := t.widx
    rpos := t.rpos
    avail := t.avail
    mag := t.mag
    ph := t.ph
    res0 := t.res0
    res1 := t.res1 }

/-- A command that is neither mutating nor PROCESS has no effect but on the results and the fault. -/
theorem CommandEffect.resultFrame (h : CommandEffect s i t) (hmutating : i.mutating = false) (hprocess : i ≠ .process) :
    ResultFrame s t := by
  cases h with
  | held _ hmut => simp [hmut] at hmutating
  | nothing | raiseFault | clearFault | result => rfl
  | setmode | setcfg | hstep | dstep | dpub => cases hmutating
  | drain | prologue => exact absurd rfl hprocess

/-- SETCFG between block processes (R142). -/
theorem exec_setcfg_idle {c : Cfg} (hratio : c.ratio ≠ 0) (hbusy : s.busy = false) :
    exec (.setcfg c) s = .next { s with cfg := c } :=
  congrArg Host.Outcome.next ((if_neg hratio).trans (heldWhileBusy_idle hbusy _ _))

/-- HSTEP between block processes (R94). -/
theorem exec_hstep_idle (hbusy : s.busy = false) : ∃ v₀ v₁,
    exec .hstep s = .next (((hilbertShift (argSample0 s) (argSample1 s) s).setRes0 v₀).setRes1 v₁) :=
  ⟨_, _, congrArg Host.Outcome.next (heldWhileBusy_idle hbusy _ _)⟩

/-- DSTEP between block processes (R122). -/
theorem exec_dstep_idle (hbusy : s.busy = false) : exec .dstep s =
    .next ((decimStep (argSample0 s) (argSample1 s) s).setRes0 (zext32 (completesRun s).toNat)) :=
  congrArg Host.Outcome.next (heldWhileBusy_idle hbusy _ _)

/-- DPUB between block processes (R123). -/
theorem exec_dpub_idle (hbusy : s.busy = false) : exec .dpub s = .next (publishPosition s) :=
  congrArg Host.Outcome.next (heldWhileBusy_idle hbusy _ _)

theorem PipelineFrame.hilbertShift (x y : Sample) (v₀ v₁ : Word) (s : State) :
    PipelineFrame s (((Machine.hilbertShift x y s).setRes0 v₀).setRes1 v₁) := by
  simp only [PipelineFrame, hilbertShift_eq, State.setRes0, State.setRes1]

theorem PipelineFrame.decimStep (x y : Sample) (v : Word) (s : State) :
    PipelineFrame s ((Machine.decimStep x y s).setRes0 v) := by
  cases hrun : completesRun s with
  | false => rw [decimStep_count hrun]; rfl
  | true => rw [decimStep_write hrun]; rfl

/-- A well-formed mutating command that is not held writes the configuration, the pipeline and the results only. -/
theorem exec_pipelineFrame (h : exec i s = .next t) (hmutating : i.mutating = true) (hwf : i.wf = true)
    (hbusy : s.busy = false) : PipelineFrame s t := by
  cases i with
  | setmode m =>
    rw [exec_setmode_idle hbusy] at h
    obtain rfl := Host.Outcome.next.inj h
    rfl
  | setcfg c =>
    rw [exec_setcfg_idle (by simpa [Instr.wf, Cfg.wf] using hwf) hbusy] at h
    obtain rfl := Host.Outcome.next.inj h
    rfl
  | hstep =>
    obtain ⟨v₀, v₁, hexec⟩ := exec_hstep_idle hbusy
    rw [hexec] at h
    obtain rfl := Host.Outcome.next.inj h
    exact .hilbertShift _ _ v₀ v₁ s
  | dstep =>
    rw [exec_dstep_idle hbusy] at h
    obtain rfl := Host.Outcome.next.inj h
    exact .decimStep _ _ _ s
  | dpub =>
    rw [exec_dpub_idle hbusy] at h
    obtain rfl := Host.Outcome.next.inj h
    rfl
  | _ => cases hmutating

/-- Settles O52, by the kinds of effect of a command, and for the mutating ones by their meaning where they are not held. -/
theorem commandClassFrames : Obligations.CommandClassFrames := fun _ _ _ h =>
  ⟨(exec_effect h).resultFrame, exec_pipelineFrame h⟩

end Sys2Proof.Machine
end

section
/-! The upper halves of ARG0 and ARG1 (R64): the commands of 16-bit operands read the arguments through their low halves only, and
every operation they use leaves the arguments alone. -/

namespace Sys2Proof.Machine

variable {s t : State} {i : Instr}

/-- `s` with other arguments. -/
def State.setArgs (a b : Word) (s : State) : State := { s with arg0 := a, arg1 := b }

theorem setRes0_setArgs (a b v : Word) (s : State) : (s.setArgs a b).setRes0 v = (s.setRes0 v).setArgs a b := rfl

theorem setRes1_setArgs (a b v : Word) (s : State) : (s.setArgs a b).setRes1 v = (s.setRes1 v).setArgs a b := rfl

theorem magSel_setArgs (a b : Word) (s : State) : magSel (s.setArgs a b) = magSel s := rfl

theorem delayedI_setArgs (a b : Word) (s : State) : delayedI (s.setArgs a b) = delayedI s := rfl

theorem filteredQ_setArgs (a b : Word) (s : State) : filteredQ (s.setArgs a b) = filteredQ s := rfl

theorem completesRun_setArgs (a b : Word) (s : State) : completesRun (s.setArgs a b) = completesRun s := rfl

theorem heldWhileBusy_setArgs (a b : Word) (i : Instr) (body : State) (s : State) :
    (s.setArgs a b).heldWhileBusy i (body.setArgs a b) = (s.heldWhileBusy i body).setArgs a b := by
  cases hbusy : s.busy with
  | false => rw [heldWhileBusy_idle hbusy, heldWhileBusy_idle (by exact hbusy)]
  | true => rw [heldWhileBusy_busy hbusy, heldWhileBusy_busy (by exact hbusy)]; rfl

theorem hilbertShift_setArgs (a b : Word) (x y : Sample) (s : State) :
    hilbertShift x y (s.setArgs a b) = (hilbertShift x y s).setArgs a b := by
  rw [hilbertShift_eq, hilbertShift_eq]
  rfl

theorem decimStep_setArgs (a b : Word) (x y : Sample) (s : State) :
    decimStep x y (s.setArgs a b) = (decimStep x y s).setArgs a b := by
  cases hrun : completesRun s with
  | false => rw [decimStep_count hrun, decimStep_count (by exact hrun)]; rfl
  | true => rw [decimStep_write hrun, decimStep_write (by exact hrun)]; rfl

/-- A command of 16-bit operands commutes with a change of the arguments that keeps their low halves. -/
theorem exec_setArgs {a b : Word} (hreads : i.readsHalves = true) (h₀ : argSample0 (s.setArgs a b) = argSample0 s)
    (h₁ : argSample1 (s.setArgs a b) = argSample1 s) (h : exec i s = .next t) :
    exec i (s.setArgs a b) = .next (t.setArgs a b) := by
  cases i with
  | abs16 | magf | magf2 | magx | mags | phase =>
    obtain rfl := Host.Outcome.next.inj h
    simp only [exec, execAbs16, execMagf, execMagf2, execMagx, execMags, execPhase, h₀, h₁, magSel_setArgs]
    rfl
  | hstep =>
    obtain rfl := Host.Outcome.next.inj h
    simp only [exec, execHstep, h₀, h₁, hilbertShift_setArgs, delayedI_setArgs, filteredQ_setArgs, setRes0_setArgs,
      setRes1_setArgs, heldWhileBusy_setArgs]
  | dstep =>
    obtain rfl := Host.Outcome.next.inj h
    simp only [exec, execDstep, h₀, h₁, decimStep_setArgs, completesRun_setArgs, setRes0_setArgs, heldWhileBusy_setArgs]
  | _ => cases hreads

/-- The low half of a word is the sample a 16-bit operand reads (R64). -/
theorem extractLsb'_of_setWidth_eq {a a' : Word} (h : a'.setWidth 16 = a.setWidth 16) :
    a'.extractLsb' 0 16 = a.extractLsb' 0 16 := by
  rwa [BitVec.setWidth_eq_extractLsb' (by decide), BitVec.setWidth_eq_extractLsb' (by decide)] at h

/-- Settles O53: the two argument pairs have the same low halves. -/
theorem upperHalvesIgnored : Obligations.UpperHalvesIgnored := by
  intro i s t a b a' b' hreads ha hb h
  exact exec_setArgs (s := { s with arg0 := a, arg1 := b }) hreads (extractLsb'_of_setWidth_eq ha)
    (extractLsb'_of_setWidth_eq hb) h

end Sys2Proof.Machine
end

section
/-! The words of the commands without operand fields (R62, formats N and R). -/

namespace Sys2Proof.Machine

/-- A word that does not decode faults, and does nothing else (R72, R172). -/
theorem faultsWith_of_error {w : Word} {c : Cause} (h : decode w = .error c) : FaultsWith w c :=
  ⟨h, fun _ => issue_of_error h⟩

/-- A command whose format has no operand field has one word; the other words of its opcode have a reserved bit set (R68). -/
theorem bareCommand_of_format {i : Instr} (hformat : decodeOperand i = decodeBare i) : BareCommand (opcodeOf i) i := by
  refine ⟨?_, fun opr hne => faultsWith_of_error ?_⟩
  · rw [decode_of_opcode, hformat, ← decodeBare_zero i]
    rfl
  · rw [decode_of_opcode, hformat, decodeBare, if_neg hne]

end Sys2Proof.Machine
end

section
/-! The fixed-point commands (spec 40_fixed_point.md). The digit-by-digit root keeps one invariant: after `k` iterations the
accumulator holds the integer square root of the `2 * k` leading bits of the operand, and what is left over. -/

namespace Sys2Proof.Machine

variable {s : State}

/-! ### The integer square root -/

/-- The accumulator (rem, root) holds the integer square root of `n` and the remainder. -/
def IsRootOf (n : Nat) (acc : Nat × Nat) : Prop := acc.2 * acc.2 + acc.1 = n ∧ acc.1 ≤ 2 * acc.2

theorem IsRootOf.eq_sqrt {n : Nat} {acc : Nat × Nat} (h : IsRootOf n acc) : acc.2 = Nat.sqrt n := by
  obtain ⟨hsum, hrem⟩ := h
  refine Nat.eq_sqrt.mpr ⟨by omega, ?_⟩
  have hnext : (acc.2 + 1) * (acc.2 + 1) = acc.2 * acc.2 + 2 * acc.2 + 1 := by ring
  omega

/-- The leading `2 * k` bits of a 32-bit value: what `k` iterations of `ISqrt` have brought down (R84). -/
def leadingBits (v k : Nat) : Nat := v / 2 ^ (32 - 2 * k)

theorem leadingBits_zero {v : Nat} (h : v < 2 ^ 32) : leadingBits v 0 = 0 := Nat.div_eq_of_lt h

theorem leadingBits_all (v : Nat) : leadingBits v 16 = v := Nat.div_one v

theorem leadingBits_succ (v : Nat) {k : Nat} (hk : k < 16) :
    leadingBits v (k + 1) = leadingBits v k * 4 + v / 2 ^ (30 - 2 * k) % 4 := by
  have hsplit : leadingBits v k = v / 2 ^ (30 - 2 * k) / 4 := by
    rw [leadingBits, Nat.div_div_eq_div_mul, show 32 - 2 * k = 30 - 2 * k + 2 by omega, pow_add]
    rfl
  have hsucc : leadingBits v (k + 1) = v / 2 ^ (30 - 2 * k) := by
    rw [leadingBits, show 32 - 2 * (k + 1) = 30 - 2 * k by omega]
  omega

/-- One iteration takes the root of `n` to the root of `n` with the next two bits appended. The root's next digit is 1 when
`2 * root + 1` still squares to at most that, which is what the trial compares. -/
theorem IsRootOf.step {n : Nat} {acc : Nat × Nat} (h : IsRootOf n acc) (v k : Nat) :
    IsRootOf (n * 4 + v / 2 ^ (30 - 2 * k) % 4) (isqrtStep v acc k) := by
  obtain ⟨rem, root⟩ := acc
  obtain ⟨hsum, hrem⟩ : root * root + rem = n ∧ rem ≤ 2 * root := h
  have hdigits : v / 2 ^ (30 - 2 * k) % 4 < 4 := Nat.mod_lt _ (by decide)
  simp only [IsRootOf, isqrtStep]
  split
  case isTrue htrial =>
    have hsquare : (root * 2 + 1) * (root * 2 + 1) = 4 * (root * root) + (root * 2 * 2 + 1) := by ring
    dsimp only
    omega
  case isFalse htrial =>
    have hsquare : root * 2 * (root * 2) = 4 * (root * root) := by ring
    dsimp only
    omega

/-- The loop invariant of `ISqrt` (R84). -/
theorem isRootOf_iterations {v : Nat} (hv : v < 2 ^ 32) {k : Nat} (hk : k ≤ 16) :
    IsRootOf (leadingBits v k) ((List.range k).foldl (isqrtStep v) (0, 0)) := by
  induction k with
  | zero => exact ⟨(leadingBits_zero hv).symm, Nat.le_refl 0⟩
  | succ k ih =>
    rw [List.range_succ, List.foldl_append, leadingBits_succ v (by omega)]
    exact (ih (by omega)).step v k

/-- The 16 iterations give the integer square root of every 32-bit value (R84). -/
theorem isqrt_eq_sqrt {v : Nat} (hv : v < 2 ^ 32) : isqrt v = Nat.sqrt v := by
  have hroot := (isRootOf_iterations hv (Nat.le_refl 16)).eq_sqrt
  rwa [leadingBits_all] at hroot

/-- ISQRT takes the root of the whole of ARG0 (R85). -/
theorem exec_isqrt (s : State) : exec .isqrt s = .next (s.setRes0 (zext32 (Nat.sqrt s.arg0.toNat))) := by
  rw [← isqrt_eq_sqrt s.arg0.isLt]
  rfl

/-- Settles O19, by the loop invariant after all 16 iterations. -/
theorem integerSquareRoot : Obligations.IntegerSquareRoot :=
  ⟨bareCommand_of_format (i := .isqrt) rfl, exec_isqrt⟩

/-! ### Clip, absolute value and sideband combination -/

/-- The symmetric clip as a bound from both sides (R80). -/
theorem sat16_eq (v : Int) : sat16 v = max (-32767) (min 32767 v) := clamp_eq v _ _ (by decide)

theorem combine_usb (d h : Int) : combine d h .usb = max (-32767) (min 32767 (d + h)) := sat16_eq _

theorem combine_lsb (d h : Int) : combine d h .lsb = max (-32767) (min 32767 (d - h)) := sat16_eq _

/-- A 16-bit operand is the low half of its register (R64). -/
theorem argSample0_eq (s : State) : argSample0 s = s.arg0.setWidth 16 :=
  (BitVec.setWidth_eq_extractLsb' (by decide)).symm

theorem exec_sat16 (s : State) : exec .sat16 s = .next (s.setRes0 (enc32 (sat16 (argSigned0 s)))) := rfl

theorem exec_abs16 (s : State) : exec .abs16 s = .next (s.setRes0 (zext32 (absSample (argSample0 s)))) := rfl

theorem exec_ssbu (s : State) :
    exec .ssbu s = .next (s.setRes0 (enc32 (combine (argSigned0 s) (argSigned1 s) .usb))) := rfl

theorem exec_ssbl (s : State) :
    exec .ssbl s = .next (s.setRes0 (enc32 (combine (argSigned0 s) (argSigned1 s) .lsb))) := rfl

/-- Settles O18, from the two-sided form of the clip and the low half of ARG0. -/
theorem clipAndAbsoluteCommands : Obligations.ClipAndAbsoluteCommands := by
  refine ⟨bareCommand_of_format (i := .sat16) rfl, bareCommand_of_format (i := .abs16) rfl, fun s => ⟨?_, ?_⟩⟩
  · rw [exec_sat16, sat16_eq]
    rfl
  · rw [exec_abs16, argSample0_eq]
    rfl

/-- Settles O20: the clip is applied to the exact sum and to the exact difference. -/
theorem sidebandCombine : Obligations.SidebandCombine := by
  refine ⟨bareCommand_of_format (i := .ssbu) rfl, bareCommand_of_format (i := .ssbl) rfl, fun s => ⟨?_, ?_⟩⟩
  · rw [exec_ssbu, combine_usb]
    rfl
  · rw [exec_ssbl, combine_lsb]
    rfl

end Sys2Proof.Machine
end

section
/-! The Hilbert filter (spec 41_hilbert.md). A run of HSTEPs is described by what it has shifted into the delay lines: `j` places
from the oldest end, a line holds its own old entry until enough samples have come, and one of those samples from then on. -/

namespace Sys2Proof.Machine

variable {s t : State}

/-! ### The quadrature sum -/

/-- The active coefficient of a pair, as the integer value of the set's entry (R90). -/
theorem coef_eq_cast (p : Params) (hsel : Bool) (k : Fin 8) :
    coef p hsel k = ((if hsel = true then p.coefU[k] else p.coefW[k] : Nat) : Int) := by
  cases hsel <;> rfl

theorem coef_range {p : Params} (h : p.Legal) (hsel : Bool) (k : Fin 8) : 0 ≤ coef p hsel k ∧ coef p hsel k ≤ 32767 := by
  have hU := h.coefU_le k
  have hW := h.coefW_le k
  rw [coef_eq_cast]
  split <;> omega

/-- The filter output is the shifted sum of the tap terms (R92). -/
theorem hq_eq_sum (p : Params) (hsel : Bool) (dl : DelayLine) : hq p hsel dl = (∑ k, tapTerm p hsel dl k) / 2 ^ 15 := by
  rw [hq, Fin.sum_univ_def]
  rfl

/-- A term is a product of a Q15 coefficient and a difference of two samples. -/
theorem abs_tapTerm_le {p : Params} (h : p.Legal) (hsel : Bool) {dl : DelayLine}
    (hdl : ∀ j : Fin 31, IsSample (dl[j]).toInt) (k : Fin 8) : |tapTerm p hsel dl k| ≤ 32767 * 65535 := by
  obtain ⟨hnonneg, hle⟩ := coef_range h hsel k
  obtain ⟨holderLow, holderHigh⟩ := hdl ⟨15 - (2 * k.val + 1), by omega⟩
  obtain ⟨hnewerLow, hnewerHigh⟩ := hdl ⟨15 + (2 * k.val + 1), by omega⟩
  simp only [Fin.getElem_fin] at holderLow holderHigh hnewerLow hnewerHigh
  rw [tapTerm, abs_mul, abs_of_nonneg hnonneg]
  refine mul_le_mul hle ?_ (abs_nonneg _) (by decide)
  rw [abs_le]
  omega

/-- The accumulator's bound: eight terms, each at its own bound (R92). -/
theorem abs_sum_tapTerm_le {p : Params} (h : p.Legal) (hsel : Bool) {dl : DelayLine}
    (hdl : ∀ j : Fin 31, IsSample (dl[j]).toInt) : |∑ k, tapTerm p hsel dl k| ≤ 8 * (32767 * 65535) :=
  calc |∑ k, tapTerm p hsel dl k| ≤ ∑ k, |tapTerm p hsel dl k| := Finset.abs_sum_le_sum_abs _ _
    _ ≤ ∑ _k : Fin 8, (32767 * 65535 : Int) := Finset.sum_le_sum fun k _ => abs_tapTerm_le h hsel hdl k
    _ = 8 * (32767 * 65535) := by simp

/-- Settles O30, from the bound on the accumulator. -/
theorem hilbertRange : Obligations.HilbertRange := by
  intro p hp hsel dl hdl
  have hsum := abs_sum_tapTerm_le hp hsel hdl
  obtain ⟨hlow, hhigh⟩ := abs_le.mp hsum
  rw [hq_eq_sum]
  exact ⟨by omega, by omega, hsum.trans_lt (by decide)⟩

/-- On a constant line every older tap equals its newer one (R96). -/
theorem hq_of_constant (p : Params) (hsel : Bool) {dl : DelayLine} {v : BitVec 32} (h : ∀ j (hj : j < 31), dl[j] = v) :
    hq p hsel dl = 0 := by
  have hterm : ∀ k, tapTerm p hsel dl k = 0 := fun k => by rw [tapTerm, h, h, sub_self, mul_zero]
  rw [hq_eq_sum, Finset.sum_eq_zero fun k _ => hterm k]
  rfl

/-! ### Many shifts of one line -/

/-- A delay line after a list of samples, the first of them shifted in first. -/
def shiftAll (dl : DelayLine) (xs : List Sample) : DelayLine := xs.foldl shiftIn dl

theorem shiftAll_concat (dl : DelayLine) (xs : List Sample) (x : Sample) :
    shiftAll dl (xs ++ [x]) = shiftIn (shiftAll dl xs) x := by simp [shiftAll]

/-- A tap that no sample has reached holds an entry of the line before the shifts. -/
theorem shiftAll_get_old (dl : DelayLine) (xs : List Sample) {j : Nat} (h : j + xs.length < 31) :
    (shiftAll dl xs)[j] = dl[j + xs.length] := by
  induction xs using List.reverseRecOn generalizing j with
  | nil => rfl
  | append_singleton xs x ih =>
    rw [List.length_append, List.length_singleton] at h
    simp only [shiftAll_concat, shiftIn_get _ _ j (by omega), ih (j := j + 1) (by omega), List.length_append,
      List.length_singleton, Nat.add_right_comm j 1, Nat.add_assoc]

/-- A tap that the samples have reached holds one of them: sample `k` has moved to tap `31 + k - xs.length`. -/
theorem shiftAll_get_new (dl : DelayLine) (xs : List Sample) {j k : Nat} {x : Sample} (hj : j < 31)
    (h : j + xs.length = 31 + k) (hx : xs[k]? = some x) : (shiftAll dl xs)[j] = x.signExtend 32 := by
  induction xs using List.reverseRecOn generalizing j with
  | nil => simp at hx
  | append_singleton xs last ih =>
    rw [List.length_append, List.length_singleton] at h
    simp only [shiftAll_concat]
    rcases Nat.lt_succ_iff_lt_or_eq.mp hj with hj' | rfl
    · rw [shiftIn_get _ _ j hj']
      exact ih (by omega) (by omega) (by rwa [List.getElem?_append_left (by omega)] at hx)
    · obtain rfl : k = xs.length := by omega
      rw [List.getElem?_concat_length, Option.some.injEq] at hx
      rw [shiftIn_get_last, hx]

/-- Once 31 operand pairs have passed, the taps hold the samples of the last 31, in their order. -/
theorem shiftAll_map_toInt (dl : DelayLine) (f : Word × Word → Sample) {xs : List (Word × Word)} {j : Nat}
    {x : Word × Word} (hlen : 31 ≤ xs.length) (hj : j < 31) (hx : xs[xs.length - 31 + j]? = some x) :
    ((shiftAll dl (xs.map f))[j]).toInt = (f x).toInt := by
  rw [shiftAll_get_new dl (xs.map f) (k := xs.length - 31 + j) (x := f x) hj (by rw [List.length_map]; omega)
    (by rw [List.getElem?_map, hx]; rfl), signExtend_toInt]

/-- 31 equal samples fill the line. -/
theorem shiftAll_replicate_get (dl : DelayLine) (x : Sample) {n j : Nat} (hn : 31 ≤ n) (hj : j < 31) :
    (shiftAll dl (List.replicate n x))[j] = x.signExtend 32 :=
  shiftAll_get_new dl _ (k := j + n - 31) hj (by rw [List.length_replicate]; omega)
    (by rw [List.getElem?_replicate, if_pos (by omega)])

theorem DelayLine.zero_get {j : Nat} (hj : j < 31) : DelayLine.zero[j] = 0 := Vector.getElem_replicate hj

/-- A cleared line still holds zeros in the taps that no sample has reached (R95). -/
theorem shiftAll_zero_get (xs : List Sample) {j : Nat} (h : j + xs.length < 31) :
    (shiftAll DelayLine.zero xs)[j] = 0 := by
  rw [shiftAll_get_old _ _ h, DelayLine.zero_get]

/-! ### One HSTEP -/

theorem argSample1_eq (s : State) : argSample1 s = s.arg1.setWidth 16 :=
  (BitVec.setWidth_eq_extractLsb' (by decide)).symm

/-- The state after an HSTEP that is not held (R93, R94). -/
def hstepAfter (s : State) : State :=
  let t := hilbertShift (argSample0 s) (argSample1 s) s
  { t with
    res0 := t.dlI[15]
    res1 := enc32 (filteredQ t) }

theorem exec_hstep_of_idle (hbusy : s.busy = false) : exec .hstep s = .next (hstepAfter s) := by
  refine congrArg Host.Outcome.next ((heldWhileBusy_idle hbusy _ _).trans ?_)
  simp only [hstepAfter, delayedI, enc32, BitVec.ofInt_toInt, State.setRes0, State.setRes1]

theorem exec_hstep_of_busy (hbusy : s.busy = true) : exec .hstep s = .next { s with held := some .hstep } :=
  congrArg Host.Outcome.next (heldWhileBusy_busy hbusy _ _)

theorem hstepAfter_dlI (s : State) : (hstepAfter s).dlI = shiftIn s.dlI (s.arg0.setWidth 16) := by
  simp only [hstepAfter, hilbertShift_eq, argSample0_eq]

theorem hstepAfter_dlQ (s : State) :
    (hstepAfter s).dlQ = if s.cfg.rails = true then s.dlQ else shiftIn s.dlQ (s.arg1.setWidth 16) := by
  simp only [hstepAfter, hilbertShift_eq, argSample1_eq]

/-- HSTEP writes the delay lines and the results, which it reads from the lines it has written. -/
theorem hstepAfter_eq (s : State) : hstepAfter s = { s with
    dlI := (hstepAfter s).dlI
    dlQ := (hstepAfter s).dlQ
    res0 := (hstepAfter s).dlI[15]
    res1 := enc32 (hq s.par s.cfg.hsel (if s.cfg.rails = true then (hstepAfter s).dlI else (hstepAfter s).dlQ)) } := by
  simp only [hstepAfter, hilbertShift_eq, filteredQ]

/-- Settles O29: the lines of `hstepAfter`, and the filter output as the sum over the tap pairs. -/
theorem hstepCommand : Obligations.HstepCommand := by
  refine ⟨bareCommand_of_format (i := .hstep) rfl, fun s => ⟨fun hbusy => ?_, exec_hstep_of_busy⟩⟩
  refine ⟨(hstepAfter s).dlI, (hstepAfter s).dlQ, fun j hj => ?_, ?_, fun hrails => ⟨fun j hj => ?_, ?_⟩,
    fun hrails => ?_, ?_⟩
  · simp only [hstepAfter_dlI, shiftIn_get _ _ j hj]
  · simp only [hstepAfter_dlI, shiftIn_get_last, signExtend_toInt]
  · simp only [hstepAfter_dlQ, hrails, Bool.false_eq_true, if_false, shiftIn_get _ _ j hj]
  · simp only [hstepAfter_dlQ, hrails, Bool.false_eq_true, if_false, shiftIn_get_last, signExtend_toInt]
  · rw [hstepAfter_dlQ, if_pos hrails]
  · simp only [← coef_eq_cast]
    rw [exec_hstep_of_idle hbusy, hstepAfter_eq, hq_eq_sum]
    rfl

/-! ### A run of HSTEPs -/

/-- A run's last pair is one more execution of the command. -/
theorem runOn_concat {i : Instr} {xs : List (Word × Word)} (h : runOn i xs s = .next t) (x : Word × Word) :
    runOn i (xs ++ [x]) s = exec i { t with arg0 := x.1, arg1 := x.2 } := by
  induction xs generalizing s with
  | nil =>
    obtain rfl := Host.Outcome.next.inj h
    rw [List.nil_append, runOn]
    cases hexec : exec i { s with arg0 := x.1, arg1 := x.2 } <;> rfl
  | cons y ys ih =>
    rw [List.cons_append, runOn]
    rw [runOn] at h
    cases hexec : exec i { s with arg0 := y.1, arg1 := y.2 } with
    | next u =>
      rw [hexec] at h
      exact ih h
    | fault r | refused r =>
      rw [hexec] at h
      cases h

/-- `t` is the state after HSTEPs from `s` on the operand pairs `xs`. -/
structure HilbertRun (s : State) (xs : List (Word × Word)) (t : State) : Prop where
  dlI : t.dlI = shiftAll s.dlI (xs.map (·.1.setWidth 16))
  dlQ : t.dlQ = if s.cfg.rails = true then s.dlQ else shiftAll s.dlQ (xs.map (·.2.setWidth 16))
  res0 : xs ≠ [] → t.res0 = t.dlI[15]
  res1 : xs ≠ [] → t.res1 = enc32 (hq s.par s.cfg.hsel (if s.cfg.rails = true then t.dlI else t.dlQ))
  frame : t = { s with
    arg0 := t.arg0
    arg1 := t.arg1
    dlI := t.dlI
    dlQ := t.dlQ
    res0 := t.res0
    res1 := t.res1 }

variable {xs : List (Word × Word)}

theorem HilbertRun.nil (s : State) : HilbertRun s [] s where
  dlI := rfl
  dlQ := (ite_self _).symm
  res0 := fun h => absurd rfl h
  res1 := fun h => absurd rfl h
  frame := rfl

theorem HilbertRun.cfg (h : HilbertRun s xs t) : t.cfg = s.cfg := by rw [h.frame]

theorem HilbertRun.par (h : HilbertRun s xs t) : t.par = s.par := by rw [h.frame]

theorem HilbertRun.busy (h : HilbertRun s xs t) : t.busy = s.busy := by rw [h.frame]

theorem HilbertRun.fault (h : HilbertRun s xs t) : t.fault = s.fault := by rw [h.frame]

theorem HilbertRun.fcause (h : HilbertRun s xs t) : t.fcause = s.fcause := by rw [h.frame]

theorem HilbertRun.statusWord (h : HilbertRun s xs t) :
    Machine.statusWord t = Machine.statusWord s := by
  rw [h.frame]
  rfl

/-- One more HSTEP. -/
theorem HilbertRun.concat (h : HilbertRun s xs t) (x : Word × Word) :
    HilbertRun s (xs ++ [x]) (hstepAfter { t with arg0 := x.1, arg1 := x.2 }) where
  dlI := by rw [hstepAfter_dlI, h.dlI, List.map_append, List.map_singleton, shiftAll_concat]
  dlQ := by
    rw [hstepAfter_dlQ, h.dlQ, h.cfg, List.map_append, List.map_singleton, shiftAll_concat]
    split <;> rfl
  res0 := fun _ => congrArg State.res0 (hstepAfter_eq _)
  res1 := fun _ => by
    rw [← h.cfg, ← h.par]
    exact congrArg State.res1 (hstepAfter_eq _)
  frame := by
    rw [hstepAfter_eq, h.frame]

/-- From an idle state, HSTEPs on any list of operand pairs complete. -/
theorem runOn_hstep (hbusy : s.busy = false) (xs : List (Word × Word)) :
    ∃ t, runOn .hstep xs s = .next t ∧ HilbertRun s xs t := by
  induction xs using List.reverseRecOn with
  | nil => exact ⟨s, rfl, .nil s⟩
  | append_singleton xs x ih =>
    obtain ⟨t, hrun, ht⟩ := ih
    exact ⟨_, (runOn_concat hrun x).trans (exec_hstep_of_idle (ht.busy.trans hbusy)), ht.concat x⟩

/-- Settles O31, from the taps of a cleared line after the run's shifts. -/
theorem hilbertStartup : Obligations.HilbertStartup := by
  intro s xs hbusy hI hQ
  obtain ⟨t, hrun, ht⟩ := runOn_hstep hbusy xs
  refine ⟨t, hrun, fun hpos hle => ?_, fun j hj hreach => ⟨?_, ?_⟩, fun hlen j hj x hx => ⟨?_, fun hrails => ?_⟩,
    ht.fault, ht.fcause, ht.statusWord⟩
  · simp only [ht.res0 (List.ne_nil_of_length_pos hpos), ht.dlI, hI]
    exact shiftAll_zero_get _ (by rw [List.length_map]; omega)
  · simp only [ht.dlI, hI]
    exact shiftAll_zero_get _ (by rwa [List.length_map])
  · simp only [ht.dlQ, hQ]
    split
    · exact DelayLine.zero_get hj
    · exact shiftAll_zero_get _ (by rwa [List.length_map])
  · simp only [ht.dlI]
    exact shiftAll_map_toInt _ (·.1.setWidth 16) hlen hj hx
  · simp only [ht.dlQ, hrails, Bool.false_eq_true, if_false]
    exact shiftAll_map_toInt _ (·.2.setWidth 16) hlen hj hx

/-- Settles O32: 31 equal samples fill the filtered line, and a constant line filters to 0. -/
theorem constantInputSettles : Obligations.ConstantInputSettles := by
  intro s a b n hbusy hn
  obtain ⟨t, hrun, ht⟩ := runOn_hstep hbusy (List.replicate n (a, b))
  have hne : List.replicate n (a, b) ≠ [] := by simp only [ne_eq, List.replicate_eq_nil_iff]; omega
  have hI : ∀ j (hj : j < 31), t.dlI[j] = (a.setWidth 16).signExtend 32 := fun j hj => by
    simp only [ht.dlI, List.map_replicate, shiftAll_replicate_get _ _ hn hj]
  have hQ : s.cfg.rails = false → ∀ j (hj : j < 31), t.dlQ[j] = (b.setWidth 16).signExtend 32 := fun hrails j hj => by
    simp only [ht.dlQ, hrails, Bool.false_eq_true, if_false, List.map_replicate, shiftAll_replicate_get _ _ hn hj]
  have hfiltered : hq s.par s.cfg.hsel (if s.cfg.rails = true then t.dlI else t.dlQ) = 0 := by
    cases hrails : s.cfg.rails with
    | true => exact hq_of_constant _ _ hI
    | false => exact hq_of_constant _ _ (hQ hrails)
  refine ⟨t, hrun, ?_, ?_⟩
  · rw [ht.res0 hne, hI, signExtend_toInt]
  · rw [ht.res1 hne, hfiltered]
    rfl

end Sys2Proof.Machine
end

section
/-! The magnitude estimators (spec 42_magnitude.md). Each reads its operands through their absolute values only, so a bound on the
estimate is a fact about two numbers of at most 32768; the exact one is the root of a sum of squares within ISQRT's 32 bits. -/

namespace Sys2Proof.Machine

variable {s : State}

/-! ### The absolute values -/

theorem magMax_le (i q : Sample) : magMax i q ≤ 32768 := max_le (absSample_le i) (absSample_le q)

theorem magMin_le_magMax (i q : Sample) : magMin i q ≤ magMax i q := min_le_max

theorem magMax_comm (i q : Sample) : magMax i q = magMax q i := max_comm _ _

theorem magMin_comm (i q : Sample) : magMin i q = magMin q i := min_comm _ _

/-- The squared length of the vector (I, Q), whose root is the exact magnitude (R103). -/
def sumSquares (i q : Sample) : Nat := absSample i * absSample i + absSample q * absSample q

theorem sumSquares_comm (i q : Sample) : sumSquares i q = sumSquares q i := Nat.add_comm _ _

theorem sumSquares_int (i q : Sample) : (sumSquares i q : Int) = i.toInt * i.toInt + q.toInt * q.toInt := by
  simp only [sumSquares, Nat.cast_add, Nat.cast_mul, absSample_int, abs_mul_abs_self]

theorem sumSquares_toNat (i q : Sample) : (i.toInt * i.toInt + q.toInt * q.toInt).toNat = sumSquares i q := by
  rw [← sumSquares_int, Int.toNat_natCast]

theorem sumSquares_real (i q : Sample) : (sumSquares i q : ℝ) = (i.toInt : ℝ) ^ 2 + (q.toInt : ℝ) ^ 2 := by
  rw [← Int.cast_natCast, sumSquares_int, Int.cast_add, Int.cast_mul, Int.cast_mul, sq, sq]

/-- The sum of squares fits the 32-bit operand of `ISqrt`. -/
theorem sumSquares_lt (i q : Sample) : sumSquares i q < 2 ^ 32 := by
  have hi := Nat.mul_self_le_mul_self (absSample_le i)
  have hq := Nat.mul_self_le_mul_self (absSample_le q)
  rw [sumSquares]
  omega

/-! ### The estimators -/

/-- The clip comes last in both branches (R102). -/
theorem magFast2_eq (i q : Sample) : magFast2 i q =
    clip15 (if magMin i q ≤ magMax i q / 4 then magMax i q else magMax i q * 7 / 8 + magMin i q / 2) :=
  (apply_ite clip15 _ _ _).symm

theorem magExact_eq (i q : Sample) : magExact i q = clip15 (Nat.sqrt (sumSquares i q)) :=
  congrArg clip15 (isqrt_eq_sqrt (sumSquares_lt i q))

/-- What an estimate depends on: the larger and the smaller absolute value, or the sum of squares. -/
theorem magBy_congr {i i' q q' : Sample} (hmax : magMax i' q' = magMax i q) (hmin : magMin i' q' = magMin i q)
    (hsquares : sumSquares i' q' = sumSquares i q) (a : MagAlg) : magBy a i' q' = magBy a i q := by
  cases a with
  | fast => rw [magBy, magFast, hmax, hmin, magFast]
  | fast2 => rw [magBy, magFast2, hmax, hmin, magFast2]
  | exact => rw [magBy, magExact_eq, hsquares, magExact_eq]

/-- An estimate depends on the absolute values only (R109, property 2). -/
theorem magBy_of_absSample_eq {i i' q q' : Sample} (hi : absSample i' = absSample i) (hq : absSample q' = absSample q)
    (a : MagAlg) : magBy a i' q' = magBy a i q := by
  apply magBy_congr
  · rw [magMax, hi, hq, magMax]
  · rw [magMin, hi, hq, magMin]
  · rw [sumSquares, hi, hq, sumSquares]

/-- An estimate is symmetric in I and Q (R109, property 2). -/
theorem magBy_comm (a : MagAlg) (i q : Sample) : magBy a i q = magBy a q i :=
  magBy_congr (magMax_comm i q) (magMin_comm i q) (sumSquares_comm i q) a

/-- With `mn = mx` the two factors add up to 31/32 + 12/32 (R109, property 3). -/
theorem magFast_le (i q : Sample) : magFast i q ≤ 43 * magMax i q / 2 ^ 5 := by
  have hmn := magMin_le_magMax i q
  rw [magFast, clip15]
  omega

/-- The first term alone, which stays below the clip (R109, property 3). -/
theorem le_magFast (i q : Sample) : 31 * magMax i q / 2 ^ 5 ≤ magFast i q := by
  have hmx := magMax_le i q
  rw [magFast, clip15]
  omega

/-- Near an axis the second estimator answers the larger absolute value (R109, property 4). -/
theorem magFast2_of_le {i q : Sample} (h : magMin i q ≤ magMax i q / 4) : magFast2 i q = min (magMax i q) 32767 := by
  rw [magFast2_eq, if_pos h, clip15]

/-- A length below 2^15 has an integer root that the clip leaves alone. -/
theorem magExact_of_lt {i q : Sample} (h : sumSquares i q < 32768 ^ 2) : magExact i q = Nat.sqrt (sumSquares i q) := by
  have hroot : Nat.sqrt (sumSquares i q) < 32768 := Nat.sqrt_lt'.mpr h
  rw [magExact_eq, clip15]
  omega

/-- The integer square root is the floor of the real one. -/
theorem abs_natSqrt_sub_sqrt_lt (n : Nat) : |(Nat.sqrt n : ℝ) - Real.sqrt n| < 1 := by
  have hle : (Nat.sqrt n : ℝ) ≤ Real.sqrt n := Real.nat_sqrt_le_real_sqrt
  have hlt : Real.sqrt n < Nat.sqrt n + 1 := Real.real_sqrt_lt_nat_sqrt_succ
  rw [abs_lt]
  exact ⟨by linarith, by linarith⟩

/-- Short of the clip the exact estimator is off by less than 1 (R109, property 6). -/
theorem abs_magExact_sub_sqrt_lt {i q : Sample} (h : Real.sqrt (sumSquares i q) < 32768) :
    |(magExact i q : ℝ) - Real.sqrt (sumSquares i q)| < 1 := by
  have hsq : sumSquares i q < 32768 ^ 2 := by exact_mod_cast (Real.sqrt_lt' (by norm_num)).mp h
  rw [magExact_of_lt hsq]
  exact abs_natSqrt_sub_sqrt_lt _

/-- Settles O25, property by property. -/
theorem magnitudeProperties : Obligations.MagnitudeProperties := by
  intro i q
  refine ⟨fun a => magBy_le a i q, ?_, magFast_le i q, le_magFast i q, fun h => (magFast2_of_le h).ge, fun h => ?_⟩
  · rintro a i' q' (⟨hi, hq⟩ | ⟨hi, hq⟩)
    · exact magBy_of_absSample_eq hi hq a
    · exact (magBy_of_absSample_eq hi hq a).trans (magBy_comm a q i)
  · rw [← sumSquares_real] at h ⊢
    exact abs_magExact_sub_sqrt_lt h

/-! ### The commands -/

theorem exec_magf (s : State) : exec .magf s = .next (s.setRes0 (zext32 (magFast (argSample0 s) (argSample1 s)))) := rfl

theorem exec_magf2 (s : State) :
    exec .magf2 s = .next (s.setRes0 (zext32 (magFast2 (argSample0 s) (argSample1 s)))) := rfl

theorem exec_magx (s : State) : exec .magx s = .next (s.setRes0 (zext32 (magExact (argSample0 s) (argSample1 s)))) := rfl

theorem exec_mags (s : State) :
    exec .mags s = .next (s.setRes0 (zext32 (magBy s.cfg.magsel (argSample0 s) (argSample1 s)))) := rfl

/-- Settles O21, on the low halves of the arguments. -/
theorem magfCommand : Obligations.MagfCommand := by
  refine ⟨bareCommand_of_format (i := .magf) rfl, fun s => ?_⟩
  rw [exec_magf, argSample0_eq, argSample1_eq]
  rfl

/-- Settles O22, with the clip taken out of the two branches. -/
theorem magf2Command : Obligations.Magf2Command := by
  refine ⟨bareCommand_of_format (i := .magf2) rfl, fun s => ?_⟩
  rw [exec_magf2, argSample0_eq, argSample1_eq, magFast2_eq]
  rfl

/-- Settles O23, from the root that the digit-by-digit loop finds. -/
theorem magxCommand : Obligations.MagxCommand := by
  refine ⟨bareCommand_of_format (i := .magx) rfl, fun s => ?_⟩
  dsimp only
  rw [exec_magx, argSample0_eq, argSample1_eq, magExact_eq, sumSquares_toNat]
  rfl

/-- The result register of an estimate holds at most 15 bits (R109, property 1). -/
theorem zext32_magBy_le (a : MagAlg) (i q : Sample) : (zext32 (magBy a i q)).toNat ≤ 32767 := by
  rw [zext32, BitVec.toNat_ofNat]
  exact (Nat.mod_le _ _).trans (magBy_le a i q)

/-- Settles O24: the selected estimator is the one its own command computes. -/
theorem magsCommand : Obligations.MagsCommand := by
  refine ⟨bareCommand_of_format (i := .mags) rfl, fun s => ⟨fun h => ?_, fun h => ?_, fun h => ?_,
    _, zext32_magBy_le _ _ _, exec_mags s⟩⟩
  · rw [exec_mags, exec_magf, h, magBy]
  · rw [exec_mags, exec_magf2, h, magBy]
  · rw [exec_mags, exec_magx, h, magBy]

end Sys2Proof.Machine
end

section
/-! The phase estimator (spec 43_phase.md). The angle in the upper half plane, `upperAngle`, reads Q through its absolute value;
the sign of Q then only negates it. Each property follows from the signs of Q and I, the range of the first-quadrant angle and
its values on the axes, where the first octant's polynomial is 0. -/

namespace Sys2Proof.Machine

variable {p : Params} {q q' i i' : Sample} {s t : State} {aq ai : Nat}

/-! ### The first octant and the first quadrant -/

@[simp] theorem octant_zero (p : Params) : octant p 0 = 0 := by simp [octant]

/-- The least ratio that is not 0 rounds to the angle 0, for every legal polynomial. -/
theorem octant_one (h : p.Legal) : octant p 1 = 0 := by
  have hcoef : 2 ^ 29 + p.atanK * 32767 ≤ 2 ^ 30 := by
    have hk := h.atanK_le
    omega
  rw [octant, mul_one, Nat.div_eq_zero_iff_lt (by norm_num)]
  calc p.qt * (2 ^ 29 + p.atanK * (32768 - 1)) ≤ 16383 * 2 ^ 30 := Nat.mul_le_mul h.qt_le hcoef
    _ < 2 ^ 45 := by norm_num

theorem quadrantAngle_of_le (hpos : 0 < ai) (hle : aq ≤ ai) : quadrantAngle p aq ai = octant p (aq * 32768 / ai) := by
  rw [quadrantAngle, if_neg hle.not_gt, if_neg hpos.ne']

/-- On the I axis the first-quadrant angle is 0, at the origin too. -/
@[simp] theorem quadrantAngle_zero_left (p : Params) (ai : Nat) : quadrantAngle p 0 ai = 0 := by
  rcases Nat.eq_zero_or_pos ai with rfl | hpos
  · simp [quadrantAngle]
  · simp [quadrantAngle_of_le hpos]

/-- On the Q axis the first-quadrant angle is a quarter turn. -/
theorem quadrantAngle_zero_right (hpos : 0 < aq) : quadrantAngle p aq 0 = p.qt := by
  simp [quadrantAngle, hpos]

/-! ### The reflection for I < 0 and the negation for Q < 0 -/

theorem absSample_eq_of_neg (h : q'.toInt = -q.toInt) : absSample q' = absSample q := by
  rw [absSample, absSample, h, Int.natAbs_neg]

theorem absSample_eq_zero : absSample q = 0 ↔ q.toInt = 0 := Int.natAbs_eq_zero

theorem absSample_pos (h : q.toInt ≠ 0) : 0 < absSample q := Int.natAbs_pos.mpr h

/-- The origin of R111 is told by I itself: its absolute value is 0 exactly when it is. -/
theorem quadrantAngle_absSample (p : Params) (q i : Sample) : quadrantAngle p (absSample q) (absSample i) =
    if absSample i < absSample q then (p.qt : Int) - octant p (absSample i * 32768 / absSample q)
    else if i.toInt = 0 then 0
    else octant p (absSample q * 32768 / absSample i) := by
  simp only [quadrantAngle, absSample_eq_zero]

/-- The angle of (|Q|, I): that of the first quadrant, reflected when I < 0 (R111). -/
def upperAngle (p : Params) (q i : Sample) : Int :=
  if i.toInt < 0 then 2 * (p.qt : Int) - quadrantAngle p (absSample q) (absSample i)
  else quadrantAngle p (absSample q) (absSample i)

theorem upperAngle_of_nonneg (hi : 0 ≤ i.toInt) : upperAngle p q i = quadrantAngle p (absSample q) (absSample i) :=
  if_neg hi.not_gt

theorem upperAngle_of_neg (hi : i.toInt < 0) :
    upperAngle p q i = 2 * (p.qt : Int) - quadrantAngle p (absSample q) (absSample i) :=
  if_pos hi

theorem upperAngle_neg_left (h : q'.toInt = -q.toInt) : upperAngle p q' i = upperAngle p q i := by
  rw [upperAngle, upperAngle, absSample_eq_of_neg h]

/-- The reflection across the Q axis: exactly one of I and -I is reflected. -/
theorem upperAngle_neg_right (hi : i.toInt ≠ 0) (h : i'.toInt = -i.toInt) :
    upperAngle p q i' = 2 * (p.qt : Int) - upperAngle p q i := by
  rcases hi.lt_or_gt with hneg | hpos
  · rw [upperAngle_of_neg hneg, upperAngle_of_nonneg (by omega), absSample_eq_of_neg h]
    omega
  · rw [upperAngle_of_nonneg hpos.le, upperAngle_of_neg (by omega), absSample_eq_of_neg h]

theorem phaseOf_eq (p : Params) (q i : Sample) :
    phaseOf p q i = if q.toInt < 0 then -upperAngle p q i else upperAngle p q i := rfl

theorem phaseOf_of_nonneg (hq : 0 ≤ q.toInt) : phaseOf p q i = upperAngle p q i := if_neg hq.not_gt

theorem phaseOf_of_neg (hq : q.toInt < 0) : phaseOf p q i = -upperAngle p q i := if_pos hq

/-- The phase of -Q is the negated phase, off the I axis (R114, property 3). -/
theorem phaseOf_neg_left (hq : q.toInt ≠ 0) (h : q'.toInt = -q.toInt) : phaseOf p q' i = -phaseOf p q i := by
  rcases hq.lt_or_gt with hneg | hpos
  · rw [phaseOf_of_neg hneg, phaseOf_of_nonneg (by omega), upperAngle_neg_left h, neg_neg]
  · rw [phaseOf_of_nonneg hpos.le, phaseOf_of_neg (by omega), upperAngle_neg_left h]

/-- The phase of (Q, -I) is the reflected phase, off the Q axis (R114, property 4). -/
theorem phaseOf_neg_right (hq : 0 ≤ q.toInt) (hi : i.toInt ≠ 0) (h : i'.toInt = -i.toInt) :
    phaseOf p q i' = 2 * (p.qt : Int) - phaseOf p q i := by
  rw [phaseOf_of_nonneg hq, phaseOf_of_nonneg hq, upperAngle_neg_right hi h]

/-! ### The axes -/

theorem phaseOf_zero_left_of_nonneg (hq : q.toInt = 0) (hi : 0 ≤ i.toInt) : phaseOf p q i = 0 := by
  rw [phaseOf_of_nonneg hq.ge, upperAngle_of_nonneg hi, absSample_eq_zero.mpr hq, quadrantAngle_zero_left]

theorem phaseOf_zero_left_of_neg (hq : q.toInt = 0) (hi : i.toInt < 0) : phaseOf p q i = 2 * (p.qt : Int) := by
  rw [phaseOf_of_nonneg hq.ge, upperAngle_of_neg hi, absSample_eq_zero.mpr hq, quadrantAngle_zero_left, sub_zero]

theorem upperAngle_zero_right (hq : q.toInt ≠ 0) (hi : i.toInt = 0) : upperAngle p q i = p.qt := by
  rw [upperAngle_of_nonneg hi.ge, absSample_eq_zero.mpr hi, quadrantAngle_zero_right (absSample_pos hq)]

/-- A small ratio below the negative I axis rounds to the negative half turn (R112). -/
theorem phaseOf_eq_neg_half_turn (hq : q.toInt < 0) (hi : i.toInt < 0) (hle : absSample q ≤ absSample i)
    (hround : octant p (absSample q * 32768 / absSample i) = 0) : phaseOf p q i = -2 * (p.qt : Int) := by
  rw [phaseOf_of_neg hq, upperAngle_of_neg hi, quadrantAngle_of_le (absSample_pos hi.ne) hle, hround]
  omega

/-! ### The command -/

theorem exec_phase (s : State) :
    exec .phase s = .next (s.setRes0 (enc32 (phaseOf s.par (argSample0 s) (argSample1 s)))) := rfl

theorem res0_of_exec_phase (h : exec .phase s = .next t) :
    t.res0 = enc32 (phaseOf s.par (argSample0 s) (argSample1 s)) := by
  obtain rfl := Host.Outcome.next.inj ((exec_phase s).symm.trans h)
  rfl

/-- Settles O27: for I > 0 the quadrant's angle or its negation, the axes, the two symmetries, and the result register as a
function of the parameters and the arguments alone. -/
theorem phaseProperties : Obligations.PhaseProperties := by
  intro p hp q i
  refine ⟨fun hi => ?_, fun hi => ⟨fun hq => ?_, fun hq => ?_, fun hq => phaseOf_zero_left_of_nonneg hq hi.ge⟩,
    fun q' hq h => phaseOf_neg_left hq h, fun i' hq hi h => phaseOf_neg_right hq hi h, ?_⟩
  · obtain ⟨hnonneg, hle⟩ := quadrantAngle_range hp (absSample q) (absSample i)
    rw [← upperAngle_of_nonneg hi.le] at hnonneg hle
    refine ⟨fun hq => ?_, fun hq => ?_, fun hq => phaseOf_zero_left_of_nonneg hq hi.le⟩
    · rw [phaseOf_of_nonneg hq.le]
      exact ⟨hnonneg, hle⟩
    · rw [phaseOf_of_neg hq]
      exact ⟨neg_le_neg hle, neg_nonpos.mpr hnonneg⟩
  · rw [phaseOf_of_nonneg hq.le, upperAngle_zero_right hq.ne' hi]
  · rw [phaseOf_of_neg hq, upperAngle_zero_right hq.ne hi]
  · intro s s' t t' hpar h₀ h₁ ht ht'
    rw [res0_of_exec_phase ht, res0_of_exec_phase ht', argSample0, argSample1, hpar, h₀, h₁]
    rfl

/-- Settles O28: the bound on every phase, and the half turns where the octant's angle is 0. -/
theorem phaseRange : Obligations.PhaseRange := by
  intro p hp q i
  obtain ⟨hlo, hhi⟩ := abs_le.mp (abs_phaseOf_le hp q i)
  refine ⟨by rwa [neg_mul], hhi, toInt_ofInt_phaseOf hp q i, phaseOf_zero_left_of_neg, phaseOf_eq_neg_half_turn, ?_⟩
  exact phaseOf_eq_neg_half_turn (by decide) (by decide) (by decide) (octant_one hp)

/-- Settles O26, from the equations of the two angles on the low halves of the arguments. -/
theorem phaseCommand : Obligations.PhaseCommand := by
  refine ⟨bareCommand_of_format (i := .phase) rfl, fun s => ?_⟩
  rw [exec_phase, argSample0_eq, argSample1_eq, phaseOf_eq, upperAngle, quadrantAngle_absSample]
  rfl

end Sys2Proof.Machine
end

section
/-! The decimator and the report buffer (spec 44_decimator.md): one decimator step, and the commands. -/

namespace Sys2Proof.Machine

variable {s t : State}

/-! ### One decimator step -/

theorem completesRun_iff : completesRun s = true ↔ s.cfg.ratio.toNat ≤ s.rem.toNat + 1 := decide_eq_true_iff

theorem completesRun_eq_false : completesRun s = false ↔ s.rem.toNat + 1 < s.cfg.ratio.toNat :=
  decide_eq_false_iff_not.trans not_le

theorem rem_add_one (s : State) : s.rem + 1 = BitVec.ofNat 4 (s.rem.toNat + 1) := by
  rw [BitVec.ofNat_add, BitVec.ofNat_toNat, BitVec.setWidth_eq]
  rfl

/-- Below RATIO the count of REM does not wrap (R22). -/
theorem toNat_rem_add_one (h : s.rem.toNat + 1 < s.cfg.ratio.toNat) : (s.rem + 1).toNat = s.rem.toNat + 1 := by
  have hratio := s.cfg.ratio.isLt
  rw [rem_add_one, BitVec.toNat_ofNat]
  omega

/-- A magnitude fits a MAG element (R25, R100). -/
theorem toNat_ofNat_magBy (a : MagAlg) (i q : Sample) : (BitVec.ofNat 15 (magBy a i q)).toNat = magBy a i q := by
  have hle := magBy_le a i q
  rw [BitVec.toNat_ofNat]
  omega

/-- A decimator step leaves REM 0 exactly when it writes (R121). -/
theorem decimStep_rem_eq_zero_iff (i q : Sample) (s : State) :
    (decimStep i q s).rem.toNat = 0 ↔ completesRun s = true := by
  cases hrun : completesRun s with
  | false =>
    have hrem : (decimStep i q s).rem.toNat = s.rem.toNat + 1 := by
      rw [decimStep_count hrun]
      exact toNat_rem_add_one (completesRun_eq_false.mp hrun)
    simp [hrem]
  | true =>
    rw [decimStep_write hrun]
    simp

/-- A decimator step writes REM, WIDX, AVAIL, MAG and PH only (R121). -/
theorem decimStep_frame (i q : Sample) (s : State) : decimStep i q s = { s with
    rem := (decimStep i q s).rem
    widx := (decimStep i q s).widx
    avail := (decimStep i q s).avail
    mag := (decimStep i q s).mag
    ph := (decimStep i q s).ph } := by
  cases hrun : completesRun s with
  | false => rw [decimStep_count hrun]
  | true => rw [decimStep_write hrun]

/-! ### The elements of the report buffer -/

/-- The pair at an index of the report buffer (R25, R26). -/
def reportPair (s : State) (k : Nat) : BitVec 15 × BitVec 16 := (Memory.read s.mag k, Memory.read s.ph k)

/-- What the decimator stores for a sample pair (I, Q) that completes a run (R121). -/
def estimate (s : State) (x : Sample × Sample) : BitVec 15 × BitVec 16 :=
  (BitVec.ofNat 15 (magBy s.cfg.magsel x.1 x.2), BitVec.ofInt 16 (phaseOf s.par x.2 x.1))

/-- A stored pair is the magnitude and the phase of its sample. -/
theorem read_of_reportPair_eq {k : Nat} {x : Sample × Sample} (h : reportPair t k = estimate s x) :
    (Memory.read t.mag k).toNat = magBy s.cfg.magsel x.1 x.2 ∧
      Memory.read t.ph k = BitVec.ofInt 16 (phaseOf s.par x.2 x.1) := by
  obtain ⟨hmag, hph⟩ := Prod.mk.inj h
  exact ⟨hmag ▸ toNat_ofNat_magBy _ _ _, hph⟩

/-- A write stores the estimate at WIDX and leaves every other element alone (R121). -/
theorem reportPair_decimStep_write (hrun : completesRun s = true) (hmag : Memory.wf s.mag) (hph : Memory.wf s.ph)
    (x : Sample × Sample) (k : Nat) :
    reportPair (decimStep x.1 x.2 s) k = if k = s.widx then estimate s x else reportPair s k := by
  rw [decimStep_write hrun]
  simp only [reportPair, estimate, Memory.read_write hmag, Memory.read_write hph]
  split <;> rfl

/-! ### The commands -/

theorem exec_dstep_of_busy (hbusy : s.busy = true) : exec .dstep s = .next { s with held := some .dstep } :=
  congrArg Host.Outcome.next (heldWhileBusy_busy hbusy _ _)

theorem exec_dpub_of_busy (hbusy : s.busy = true) : exec .dpub s = .next { s with held := some .dpub } :=
  congrArg Host.Outcome.next (heldWhileBusy_busy hbusy _ _)

theorem exec_rdpos (s : State) : exec .rdpos s = .next (s.setRes0 (zext32 s.rpos)) := rfl

theorem exec_rdmag (k : BitVec 16) (s : State) :
    exec (.rdmag k) s = .next (reportRead k (BitVec.ofNat 32 (Memory.read s.mag k.toNat).toNat) s) := by
  rw [BitVec.ofNat_toNat]
  rfl

theorem exec_rdph (k : BitVec 16) (s : State) :
    exec (.rdph k) s = .next (reportRead k (BitVec.ofInt 32 (Memory.read s.ph k.toNat).toInt) s) := rfl

theorem reportRead_of_lt {k : BitVec 16} (h : k.toNat < s.par.blockLen) (v : Word) : reportRead k v s = s.setRes0 v :=
  if_neg h.not_ge

theorem reportRead_of_le {k : BitVec 16} (h : s.par.blockLen ≤ k.toNat) (v : Word) :
    reportRead k v s = s.raiseFault .indexRange := if_pos h

/-- Settles O33: a step that completes no run, a step that writes, and the hold. -/
theorem dstepCommand : Obligations.DstepCommand := by
  refine ⟨bareCommand_of_format (i := .dstep) rfl, fun s => ⟨fun hbusy hlt => ?_, fun hbusy hle hmag hph => ?_,
    exec_dstep_of_busy⟩⟩
  · have hrun := completesRun_eq_false.mpr hlt
    rw [exec_dstep_idle hbusy, decimStep_count hrun, hrun, rem_add_one]
    rfl
  · have hrun := completesRun_iff.mpr hle
    have hpair := reportPair_decimStep_write hrun hmag hph (argSample0 s, argSample1 s)
    obtain ⟨hm, hf⟩ := read_of_reportPair_eq ((hpair s.widx).trans (if_pos rfl))
    refine ⟨_, _, ?_, by rwa [argSample0_eq, argSample1_eq] at hm, by rwa [argSample0_eq, argSample1_eq] at hf,
      fun k hk => Prod.mk.inj ((hpair k).trans (if_neg hk))⟩
    rw [exec_dstep_idle hbusy, hrun, decimStep_write hrun]
    rfl

/-- Settles O35, from DPUB between block processes and the hold. -/
theorem dpubCommand : Obligations.DpubCommand :=
  ⟨bareCommand_of_format (i := .dpub) rfl, fun _ => ⟨exec_dpub_idle, exec_dpub_of_busy⟩⟩

/-- Settles O36. -/
theorem rdposCommand : Obligations.RdposCommand :=
  ⟨bareCommand_of_format (i := .rdpos) rfl, exec_rdpos⟩

/-- The words of a command with an index: its reserved bits fault, and the index is read from the other words (R65, R68). -/
theorem decode_of_index_format {i : Instr} {mk : BitVec 16 → Instr} (hformat : decodeOperand i = decodeIndex mk)
    (opr : BitVec 24) :
    (opr.extractLsb' 16 8 ≠ 0 → FaultsWith (opcodeOf i ++ opr) .reservedNonzero) ∧
      (opr.extractLsb' 16 8 = 0 → decode (opcodeOf i ++ opr) = .ok (mk (opr.extractLsb' 0 16))) := by
  have hdecode := decode_of_opcode i opr
  rw [hformat] at hdecode
  exact ⟨fun hne => faultsWith_of_error (hdecode.trans (if_pos hne)),
    fun hzero => hdecode.trans (if_neg (not_not.mpr hzero))⟩

/-- Settles O37: the words by the format of the two commands, the reads by the two cases of `reportRead`. -/
theorem reportReads : Obligations.ReportReads := by
  refine ⟨fun opr => ?_, fun s k => ⟨fun hlt => ⟨?_, ?_⟩, fun hle => ⟨?_, ?_⟩⟩⟩
  · obtain ⟨hmagFaults, hmagOk⟩ := decode_of_index_format (i := .rdmag 0) rfl opr
    obtain ⟨hphFaults, hphOk⟩ := decode_of_index_format (i := .rdph 0) rfl opr
    exact ⟨fun hne => ⟨hmagFaults hne, hphFaults hne⟩, fun hzero => ⟨hmagOk hzero, hphOk hzero⟩⟩
  · rw [exec_rdmag, reportRead_of_lt hlt]
    rfl
  · rw [exec_rdph, reportRead_of_lt hlt]
    rfl
  · rw [exec_rdmag, reportRead_of_le hle]
    rfl
  · rw [exec_rdph, reportRead_of_le hle]
    rfl

end Sys2Proof.Machine
end

section
/-! Runs of decimator steps (R128, R129). A run is described by the number of its writes: which sample each write takes, REM and WIDX
follow from that number. The same run underlies the DSTEPs of a host and the sample steps of a REPORT block. -/

namespace Sys2Proof.Machine

variable {s t : State}

/-! ### The slots of the report buffer -/

/-- The index write `j` of a run from `s` goes to (R121). -/
def slot (s : State) (j : Nat) : Nat := (s.widx + j) % s.par.blockLen

theorem slot_succ (s : State) (j : Nat) : slot s (j + 1) = (slot s j + 1) % s.par.blockLen := by
  simp only [slot, Nat.mod_add_mod, Nat.add_assoc]

/-- Fewer than L writes apart, the slots differ. -/
theorem slot_ne {j k : Nat} (hlt : j < k) (hnear : k < j + s.par.blockLen) : slot s j ≠ slot s k := by
  intro heq
  have hdvd : s.par.blockLen ∣ s.widx + k - (s.widx + j) := (Nat.modEq_iff_dvd' (by omega)).mp heq
  have hle := Nat.le_of_dvd (by omega) hdvd
  omega

/-! ### A run of decimator steps -/

/-- `t` is the state after `n` decimator steps from `s` on the samples `x`, `w` of which wrote, so far as the decimator goes. -/
structure DecimRun (s : State) (x : Nat → Sample × Sample) (n w : Nat) (t : State) : Prop where
  par : t.par = s.par
  cfg : t.cfg = s.cfg
  /-- The steps are those counted to the writes, and those counted in REM. -/
  count : s.rem.toNat + n = w * s.cfg.ratio.toNat + t.rem.toNat
  rem_lt : t.rem.toNat < s.cfg.ratio.toNat
  widx : t.widx = slot s w
  avail : t.avail = true ↔ s.avail = true ∨ ∃ j, j < w ∧ s.par.blockLen / 2 ≤ slot s (j + 1)
  mag_wf : Memory.wf t.mag
  ph_wf : Memory.wf t.ph
  /-- Each of the last L writes is still there: the estimate of the sample that completed its run of RATIO samples. -/
  written : ∀ j, j < w → w ≤ j + s.par.blockLen → ∀ m, s.rem.toNat + m + 1 = (j + 1) * s.cfg.ratio.toNat →
    reportPair t (slot s j) = estimate s (x m)
  untouched : ∀ k, (∀ j, j < w → k ≠ slot s j) → reportPair t k = reportPair s k
  stored : ∀ k, reportPair t k = reportPair s k ∨ ∃ y, reportPair t k = estimate s y

variable {x : Nat → Sample × Sample} {n w : Nat}

theorem DecimRun.nil (x : Nat → Sample × Sample) (hrem : s.rem.toNat < s.cfg.ratio.toNat) (hwidx : s.widx < s.par.blockLen)
    (hmag : Memory.wf s.mag) (hph : Memory.wf s.ph) : DecimRun s x 0 0 s where
  par := rfl
  cfg := rfl
  count := by omega
  rem_lt := hrem
  widx := (Nat.mod_eq_of_lt hwidx).symm
  avail := by simp
  mag_wf := hmag
  ph_wf := hph
  written := fun _ hj => absurd hj (Nat.not_lt_zero _)
  untouched := fun _ _ => rfl
  stored := fun _ => .inl rfl

/-- The registers, SIDX and the turns play no part in a run of the decimator (R121). -/
theorem DecimRun.withOthers (h : DecimRun s x n w t) (a b r : Word) (sidx : Nat) (turns : List Turn) :
    DecimRun s x n w { t with arg0 := a, arg1 := b, res0 := r, sidx := sidx, turns := turns } := { h with }

theorem DecimRun.estimate_eq (h : DecimRun s x n w t) (y : Sample × Sample) : estimate t y = estimate s y := by
  rw [estimate, h.cfg, h.par]
  rfl

/-- A further step that only counts. -/
theorem DecimRun.count_step (h : DecimRun s x n w t) (hrun : completesRun t = false) :
    DecimRun s x (n + 1) w (decimStep (x n).1 (x n).2 t) := by
  have hlt := completesRun_eq_false.mp hrun
  have hrem := toNat_rem_add_one hlt
  have hcount := h.count
  rw [h.cfg] at hlt
  rw [decimStep_count hrun]
  exact
    { h with
      count := by dsimp only; omega
      rem_lt := by dsimp only; omega }

/-- A further step that writes: the run it completes ends with the sample `x n`, and the slots of the last L writes differ. -/
theorem DecimRun.write_step (h : DecimRun s x n w t) (hrun : completesRun t = true) :
    DecimRun s x (n + 1) (w + 1) (decimStep (x n).1 (x n).2 t) := by
  have hpair := reportPair_decimStep_write hrun h.mag_wf h.ph_wf (x n)
  rw [h.widx, h.estimate_eq] at hpair
  have hfull : t.rem.toNat + 1 = s.cfg.ratio.toNat := by
    have hle := completesRun_iff.mp hrun
    rw [h.cfg] at hle
    have hlt := h.rem_lt
    omega
  have htotal : s.rem.toNat + n + 1 = (w + 1) * s.cfg.ratio.toNat := by
    have hcount := h.count
    rw [Nat.add_one_mul]
    omega
  rw [decimStep_write hrun] at hpair ⊢
  refine
    { par := h.par
      cfg := h.cfg
      count := htotal
      rem_lt := hfull ▸ Nat.succ_pos _
      widx := by rw [slot_succ, ← h.widx, ← h.par]
      avail := ?avail
      mag_wf := Memory.write_wf h.mag_wf _ _
      ph_wf := Memory.write_wf h.ph_wf _ _
      written := fun j hj hnear m hm => ?written
      untouched := fun k hk => ?untouched
      stored := fun k => ?stored }
  case avail =>
    simp only [Bool.or_eq_true, decide_eq_true_eq, h.avail, Nat.exists_lt_succ_right, h.widx, h.par, ← slot_succ, or_assoc]
  case written =>
    rw [hpair]
    rcases Nat.lt_succ_iff_lt_or_eq.mp hj with hlt | rfl
    · rw [if_neg (slot_ne hlt (by omega))]
      exact h.written j hlt (by omega) m hm
    · rw [if_pos rfl, show m = n by omega]
  case untouched =>
    rw [hpair, if_neg (hk w (Nat.lt_succ_self w))]
    exact h.untouched k fun j hj => hk j (Nat.lt_succ_of_lt hj)
  case stored =>
    rw [hpair]
    split
    · exact .inr ⟨x n, rfl⟩
    · exact h.stored k

/-- One more decimator step. -/
theorem DecimRun.step (h : DecimRun s x n w t) : ∃ w', DecimRun s x (n + 1) w' (decimStep (x n).1 (x n).2 t) := by
  cases hrun : completesRun t with
  | false => exact ⟨w, h.count_step hrun⟩
  | true => exact ⟨w + 1, h.write_step hrun⟩

/-- The number of writes and REM are the quotient and the remainder by RATIO (R128, R129). -/
theorem DecimRun.div_mod (h : DecimRun s x n w t) :
    (s.rem.toNat + n) / s.cfg.ratio.toNat = w ∧ (s.rem.toNat + n) % s.cfg.ratio.toNat = t.rem.toNat := by
  have hlt := h.rem_lt
  rw [Nat.div_mod_unique (by omega), h.count, Nat.mul_comm, Nat.add_comm]
  exact ⟨rfl, hlt⟩

/-- Each write takes a step of its own. -/
theorem DecimRun.writes_le (h : DecimRun s x n w t) (hrem : s.rem.toNat < s.cfg.ratio.toNat) : w ≤ n := by
  have hle : n ≤ s.cfg.ratio.toNat * n := Nat.le_mul_of_pos_left n (by omega)
  have hlt : (s.rem.toNat + n) / s.cfg.ratio.toNat < n + 1 :=
    Nat.div_lt_of_lt_mul (by rw [Nat.mul_add_one]; omega)
  rw [h.div_mod.1] at hlt
  exact Nat.le_of_lt_succ hlt

/-- With RATIO 1 every step writes (R129). -/
theorem DecimRun.writes_eq (h : DecimRun s x n w t) (hrem : s.rem.toNat < s.cfg.ratio.toNat)
    (hone : s.cfg.ratio.toNat = 1) : w = n := by
  have hcount := h.count
  have hlt := h.rem_lt
  rw [hone] at hcount hlt hrem
  omega

/-- Every phase stays in range (R26, R128). -/
theorem DecimRun.abs_ph_le (h : DecimRun s x n w t) (hpar : s.par.Legal)
    (hstart : ∀ k, |(Memory.read s.ph k).toInt| ≤ 2 * (s.par.qt : Int)) (k : Nat) :
    |(Memory.read t.ph k).toInt| ≤ 2 * (s.par.qt : Int) := by
  rcases h.stored k with hold | ⟨y, hnew⟩
  · rw [(Prod.mk.inj hold).2]
    exact hstart k
  · rw [(read_of_reportPair_eq hnew).2, toInt_ofInt_phaseOf hpar]
    exact abs_phaseOf_le hpar _ _

/-! ### A run of DSTEPs -/

/-- The sample pairs that DSTEPs take from operand pairs (R122). -/
def operandSamples (xs : List (Word × Word)) (n : Nat) : Sample × Sample :=
  ((xs.getD n 0).1.setWidth 16, (xs.getD n 0).2.setWidth 16)

/-- `t` is the state after DSTEPs from `s` on the first `n` operand pairs of `xs`. -/
structure DstepRun (s : State) (xs : List (Word × Word)) (n w : Nat) (t : State) : Prop extends
    DecimRun s (operandSamples xs) n w t where
  busy : t.busy = false
  rpos : t.rpos = s.rpos
  /-- RES0 says whether the last step wrote. -/
  res0 : 0 < n → t.res0 = if t.rem.toNat = 0 then 1 else 0

theorem DstepRun.nil (xs : List (Word × Word)) (hclear : s.clearPipeline = s) (hbusy : s.busy = false)
    (hratio : s.cfg.ratio ≠ 0) (hpar : s.par.Legal) : DstepRun s xs 0 0 s where
  __ : DecimRun s (operandSamples xs) 0 0 s := by
    refine .nil _ ?_ ?_ ?_ ?_
    all_goals rw [← hclear]
    · exact Nat.pos_of_ne_zero fun hzero => hratio (BitVec.eq_of_toNat_eq hzero)
    · exact lt_of_lt_of_le Nat.two_pos (legal_two_le hpar)
    · exact Memory.wf_nil
    · exact Memory.wf_nil
  busy := hbusy
  rpos := rfl
  res0 := fun hpos => absurd hpos (Nat.lt_irrefl 0)

/-- One more DSTEP. -/
theorem DstepRun.step {xs : List (Word × Word)} (h : DstepRun s xs n w t) (hn : n < xs.length) :
    ∃ w' u, exec .dstep { t with arg0 := xs[n].1, arg1 := xs[n].2 } = .next u ∧ DstepRun s xs (n + 1) w' u := by
  have hx : xs.getD n 0 = xs[n] := List.getD_eq_getElem _ _ hn
  obtain ⟨w', hdecim⟩ := (h.withOthers xs[n].1 xs[n].2 t.res0 t.sidx t.turns).step
  refine ⟨w', _, exec_dstep_idle h.busy, ?_⟩
  rw [argSample0_eq, argSample1_eq]
  rw [operandSamples, hx] at hdecim
  refine { hdecim with busy := ?_, rpos := ?_, res0 := fun _ => ?_ }
  · rw [decimStep_frame]
    exact h.busy
  · rw [decimStep_frame]
    exact h.rpos
  · simp only [State.setRes0_res0, State.setRes0_rem, decimStep_rem_eq_zero_iff]
    cases completesRun _ <;> rfl

/-- From an idle state that a clear left, DSTEPs on any list of operand pairs complete. -/
theorem runOn_dstep {xs : List (Word × Word)} (hstart : DstepRun s xs 0 0 s) (hn : n ≤ xs.length) :
    ∃ w t, runOn .dstep (xs.take n) s = .next t ∧ DstepRun s xs n w t := by
  induction n with
  | zero => exact ⟨0, s, rfl, hstart⟩
  | succ n ih =>
    obtain ⟨w, t, hrun, ht⟩ := ih (by omega)
    obtain ⟨w', u, hexec, hu⟩ := ht.step hn
    refine ⟨w', u, ?_, hu⟩
    rw [← List.take_concat_get' xs n hn, runOn_concat hrun, hexec]

/-- From the start of the buffer a write reaches the second half exactly when there are L/2 of them (R128). -/
theorem exists_slot_ge_iff (hwidx : s.widx = 0) (hpar : s.par.Legal) :
    (∃ j, j < w ∧ s.par.blockLen / 2 ≤ slot s (j + 1)) ↔ s.par.blockLen / 2 ≤ w := by
  have hlen := legal_two_le hpar
  simp only [slot, hwidx, Nat.zero_add]
  constructor
  · rintro ⟨j, hj, hle⟩
    have hmod := Nat.mod_le (j + 1) s.par.blockLen
    omega
  · intro hle
    refine ⟨s.par.blockLen / 2 - 1, by omega, ?_⟩
    rw [Nat.mod_eq_of_lt (by omega)]
    omega

/-- Settles O34: the run of all its DSTEPs, started with REM, WIDX and AVAIL 0 and an empty buffer. -/
theorem decimatorStream : Obligations.DecimatorStream := by
  intro s xs hclear hbusy hratio hpar
  have hrem : s.rem.toNat = 0 := by rw [← hclear]; rfl
  have hwidx : s.widx = 0 := by rw [← hclear]; rfl
  have havail : s.avail = false := by rw [← hclear]; rfl
  have hrpos : s.rpos = 0 := by rw [← hclear]; rfl
  have hph : s.ph = [] := by rw [← hclear]; rfl
  obtain ⟨w, t, hrun, ht⟩ := runOn_dstep (.nil xs hclear hbusy hratio hpar) (Nat.le_refl xs.length)
  obtain ⟨hdiv, hmod⟩ := ht.div_mod
  rw [hrem, Nat.zero_add] at hdiv hmod
  have hlen : 0 < s.par.blockLen := lt_of_lt_of_le Nat.two_pos (legal_two_le hpar)
  rw [List.take_length] at hrun
  rw [hdiv, hmod]
  refine ⟨t, hrun, rfl, fun hpos => ?_, ?_, ?_, ?_, ?_, ht.rem_lt, fun k => ⟨?_, ?_⟩⟩
  · simp only [ht.res0 hpos, Nat.dvd_iff_mod_eq_zero, hmod]
  · rw [ht.widx, slot, hwidx, Nat.zero_add]
  · rw [ht.avail, havail, exists_slot_ge_iff hwidx hpar]
    simp
  · rw [ht.widx]
    exact Nat.mod_lt _ hlen
  · rw [ht.rpos, hrpos]
    exact hlen
  · have hlt := (Memory.read t.mag k).isLt
    omega
  · exact ht.abs_ph_le hpar (by simp [hph]) k

end Sys2Proof.Machine
end

section
/-! A REPORT block (R129): L sample steps of the pipeline and the epilogue. -/

namespace Sys2Proof.Machine

variable {s t : State} {ts us : List Turn} {n w : Nat}

/-- A run's last step is one more step of the machine. -/
theorem run_succ {M : Host.Core} {s t : M.State} {k : Nat} (h : M.run k s = .next t) : M.run (k + 1) s = M.step t := by
  induction k generalizing s with
  | zero =>
    obtain rfl := Host.Outcome.next.inj h
    rw [Host.Core.run]
    cases hstep : M.step s <;> rfl
  | succ k ih =>
    rw [Host.Core.run] at h ⊢
    cases hstep : M.step s with
    | next u =>
      rw [hstep] at h
      exact ih h
    | fault r | refused r =>
      rw [hstep] at h
      cases h

/-- The sample pair (I, Q) that a block process reads at an index (R157 to R159). -/
def blockSample (s : State) (n : Nat) : Sample × Sample := (Memory.read s.blkI n, Memory.read s.blkQ n)

/-- A turn of the pipeline (R50). -/
theorem step_of_pipeline_turn (hturns : s.turns = .pipeline :: us) : step s = pipelineStep { s with turns := us } := by
  rw [step_of_turn (nextTurn_cons hturns), hturns]
  rfl

theorem pipelineStep_of_lt (hbusy : s.busy = true) (hn : s.sidx < s.par.blockLen) : pipelineStep s = sampleStep s := by
  rw [pipelineStep, hbusy, if_pos hn]
  rfl

theorem pipelineStep_of_le (hbusy : s.busy = true) (hn : s.par.blockLen ≤ s.sidx) :
    pipelineStep s = .next (epilogue s) := by
  rw [pipelineStep, hbusy, if_neg hn.not_gt]
  rfl

theorem sampleStep_of_report (hmode : s.mode = .report) : sampleStep s = repStep s := by rw [sampleStep, hmode]

/-- A sample step of a REPORT block process (R159). -/
theorem step_report_sample (hturns : s.turns = .pipeline :: us) (hbusy : s.busy = true) (hmode : s.mode = .report)
    (hI : s.acqI = true) (hQ : s.acqQ = true) (hn : s.sidx < s.par.blockLen) :
    step s = .next { decimStep (blockSample s s.sidx).1 (blockSample s s.sidx).2 { s with turns := us } with
      sidx := s.sidx + 1 } :=
  calc step s
    _ = pipelineStep { s with turns := us } := step_of_pipeline_turn hturns
    _ = sampleStep { s with turns := us } := pipelineStep_of_lt hbusy hn
    _ = repStep { s with turns := us } := sampleStep_of_report hmode
    _ = _ := repStep_eq hI hQ hn

/-- The turns left after `n` sample steps of a REPORT block, before the turns `ts`. -/
def reportTurns (s : State) (ts : List Turn) (n : Nat) : List Turn :=
  List.replicate (s.par.blockLen + 1 - n) .pipeline ++ ts

theorem reportTurns_of_le (hn : n ≤ s.par.blockLen) : reportTurns s ts n = .pipeline :: reportTurns s ts (n + 1) := by
  rw [reportTurns, show s.par.blockLen + 1 - n = s.par.blockLen + 1 - (n + 1) + 1 by omega]
  rfl

/-- `t` is the state after the first `n` sample steps of the REPORT block that starts in `s`. -/
structure ReportRun (s : State) (ts : List Turn) (n w : Nat) (t : State) : Prop extends
    DecimRun s (blockSample s) n w t where
  frame : t = { s with
    rem := t.rem
    widx := t.widx
    avail := t.avail
    mag := t.mag
    ph := t.ph
    sidx := n
    turns := reportTurns s ts n }

theorem ReportRun.nil (h : Inv s) (hsidx : s.sidx = 0) (hrem : s.rem.toNat < s.cfg.ratio.toNat)
    (hturns : s.turns = reportTurns s ts 0) : ReportRun s ts 0 0 s where
  __ := DecimRun.nil (blockSample s) hrem h.widx_lt h.mag_wf.1 h.ph_wf.1
  frame := by rw [← hturns, ← hsidx]

theorem ReportRun.turns (h : ReportRun s ts n w t) (hn : n ≤ s.par.blockLen) :
    t.turns = .pipeline :: reportTurns s ts (n + 1) := by
  rw [← reportTurns_of_le hn, h.frame]

/-- One more sample step. -/
theorem ReportRun.step (h : ReportRun s ts n w t) (hinv : Inv s) (hbusy : s.busy = true) (hmode : s.mode = .report)
    (hn : n < s.par.blockLen) : ∃ w' u, step t = .next u ∧ ReportRun s ts (n + 1) w' u := by
  have hQ : s.acqQ = true := hinv.acqQ_of_needsQ hbusy (by rw [hmode]; rfl)
  have hsample : blockSample t t.sidx = blockSample s n := by rw [h.frame]; rfl
  have hstep := step_report_sample (h.turns hn.le) (by rw [h.frame]; exact hbusy) (by rw [h.frame]; exact hmode)
    (by rw [h.frame]; exact hinv.acqI_of_busy hbusy) (by rw [h.frame]; exact hQ) (by rw [h.frame]; exact hn)
  rw [hsample] at hstep
  obtain ⟨w', hdecim⟩ := (h.withOthers t.arg0 t.arg1 t.res0 t.sidx (reportTurns s ts (n + 1))).step
  refine ⟨w', _, hstep, { hdecim with frame := ?_ }⟩
  rw [decimStep_frame, h.frame]

/-- The first `n` sample steps of a REPORT block. -/
theorem run_report (hstart : ReportRun s ts 0 0 s) (hinv : Inv s) (hbusy : s.busy = true) (hmode : s.mode = .report)
    (hn : n ≤ s.par.blockLen) : ∃ w t, Sys2Proof.core.run n s = .next t ∧ ReportRun s ts n w t := by
  induction n with
  | zero => exact ⟨0, s, rfl, hstart⟩
  | succ n ih =>
    obtain ⟨w, t, hrun, ht⟩ := ih (by omega)
    obtain ⟨w', u, hstep, hu⟩ := ht.step hinv hbusy hmode hn
    exact ⟨w', u, (run_succ hrun).trans hstep, hu⟩

/-- Settles O60: the run of the block's L sample steps, then the epilogue, which publishes WIDX. A block makes at most L writes, so
each of them is still in the buffer. -/
theorem reportBlockWrites : Obligations.ReportBlockWrites := by
  intro s ts hinv hbusy hmode hsidx hrem hturns
  obtain ⟨w, t, hrun, ht⟩ := run_report (.nil hinv hsidx hrem hturns) hinv hbusy hmode (Nat.le_refl s.par.blockLen)
  obtain ⟨hdiv, hmod⟩ := ht.div_mod
  have hmode' : t.mode = .report := by rw [ht.frame]; exact hmode
  have hblkI : t.blkI = s.blkI := by rw [ht.frame]
  have hblkQ : t.blkQ = s.blkQ := by rw [ht.frame]
  have hepilogue : step t = .next (epilogue { t with turns := reportTurns s ts (s.par.blockLen + 1) }) :=
    (step_of_pipeline_turn (ht.turns (Nat.le_refl _))).trans
      (pipelineStep_of_le (by rw [ht.frame]; exact hbusy) (by rw [ht.frame]))
  rw [epilogue_eq] at hepilogue
  have hwrites := ht.writes_le hrem
  simp only [hdiv, hmod]
  refine ⟨_, (run_succ hrun).trans hepilogue, rfl, rfl, ht.widx, if_pos hmode', hblkI, hblkQ, fun j hj => ?_,
    fun k hk => Prod.mk.inj (ht.untouched k hk), ht.avail, fun hone => ?_⟩
  · refine read_of_reportPair_eq (ht.written j hj (by omega) _ ?_)
    rw [Nat.add_one_mul]
    omega
  · have hall := ht.writes_eq hrem hone
    refine ⟨hall, ht.widx.trans ?_⟩
    rw [hall, slot, Nat.add_mod_right, Nat.mod_eq_of_lt hinv.widx_lt]

end Sys2Proof.Machine
end

section
/-! What a sample step writes (R157 to R159), and the balance of the transport trace (R150 to R153, R162): events are recorded by the
drain, the prologue and the epilogue alone, each of which follows the protocol from the rails that a legal state holds. -/

namespace Sys2Proof.Machine

variable {s t : State}

/-! ### What a sample step writes -/

/-- The sample step of any mode writes the filter, the decimator, the I block and SIDX only. -/
structure SampleEffect (s t : State) : Prop where
  frame : t = { s with
    dlI := t.dlI
    dlQ := t.dlQ
    rem := t.rem
    widx := t.widx
    avail := t.avail
    mag := t.mag
    ph := t.ph
    blkI := t.blkI
    sidx := s.sidx + 1 }
  /-- REPORT only reads the blocks (R159). -/
  report : s.mode = .report → t.blkI = s.blkI
  /-- The other modes leave the report buffer alone (R157, R158). -/
  others : s.mode ≠ .report → t.widx = s.widx

theorem sampleStep_effect (h : sampleStep s = .next t) : SampleEffect s t := by
  obtain ⟨hI, hn, ⟨hmode, hQ, henv⟩ | ⟨sb, hmode, -, rfl⟩ | ⟨hmode, -, rfl⟩⟩ := sampleStep_cases h
  case inl =>
    rw [envStep_eq hmode hI hQ hn, Host.Outcome.next.injEq] at henv
    subst henv
    exact ⟨rfl, by simp [hmode], fun _ => rfl⟩
  case inr.inl =>
    have hne : s.mode ≠ .report := by rcases hmode with ⟨hm, -⟩ | ⟨hm, -⟩ <;> simp [hm]
    simp only [ssbAfter, hilbertShift_eq]
    exact ⟨rfl, (absurd · hne), fun _ => rfl⟩
  case inr.inr =>
    rw [decimStep_frame]
    exact ⟨rfl, fun _ => rfl, (absurd hmode ·)⟩

/-! ### Who records an event -/

/-- `t` has the trace of `s`, and holds the same rails. -/
structure SameTrace (s t : State) : Prop where
  events : t.events = s.events := by rfl
  acqI : t.acqI = s.acqI := by rfl
  acqQ : t.acqQ = s.acqQ := by rfl

theorem SameTrace.balanced (h : SameTrace s t) (hs : TraceBalanced s) : TraceBalanced t := by
  rw [TraceBalanced, h.events, h.acqI, h.acqQ]
  exact hs

theorem SampleEffect.sameTrace (h : SampleEffect s t) : SameTrace s t where
  events := by rw [h.frame]
  acqI := by rw [h.frame]
  acqQ := by rw [h.frame]

theorem SameTrace.offer (r : Rail) (samples : List Sample) (s : State) : SameTrace s (State.offer r samples s) := by
  cases r <;> exact {}

theorem SameTrace.withdraw (r : Rail) (s : State) : SameTrace s (State.withdraw r s) := by
  cases r <;> exact {}

theorem SameTrace.hilbertShift (i q : Sample) (s : State) : SameTrace s (hilbertShift i q s) := by
  rw [hilbertShift_eq]
  exact {}

theorem SameTrace.decimStep (i q : Sample) (s : State) : SameTrace s (decimStep i q s) := by
  rw [decimStep_frame]
  exact {}

/-! ### The events follow the protocol -/

theorem replay_append (es fs : List Event) : replay (es ++ fs) = fs.foldl replayEvent (replay es) := List.foldl_append

/-- Between block processes the core holds no block (R161). -/
theorem Inv.acqI_of_idle (h : Inv s) (hb : s.busy = false) : s.acqI = false := h.acqI_busy.trans hb

theorem Inv.acqQ_of_idle (h : Inv s) (hb : s.busy = false) : s.acqQ = false := by
  rw [h.acqQ_busy, hb]
  rfl

/-- With no rail held, a drain acquires and releases each block that is present (R155). -/
theorem TraceBalanced.drain (hs : TraceBalanced s) (h : Inv s) (hb : s.busy = false) : TraceBalanced (drain s) := by
  have hstart : replay s.events = some (false, false) := by rw [hs, h.acqI_of_idle hb, h.acqQ_of_idle hb]
  rw [drain_eq]
  show replay _ = some (s.acqI, s.acqQ)
  rw [replay_append, replay_append, hstart, h.acqI_of_idle hb, h.acqQ_of_idle hb]
  cases s.presentI <;> cases s.presentQ <;> rfl

/-- With no rail held, the prologue acquires the I block, and the Q block if it is present (R156). -/
theorem TraceBalanced.prologue (hs : TraceBalanced s) (h : Inv s) (hb : s.busy = false) : TraceBalanced (prologue s) := by
  have hstart : replay s.events = some (false, false) := by rw [hs, h.acqI_of_idle hb, h.acqQ_of_idle hb]
  rw [prologue_eq]
  show replay _ = some (true, s.acqQ || s.presentQ)
  rw [replay_append, hstart, h.acqQ_of_idle hb]
  cases s.presentQ <;> rfl

/-- With the I block held, the epilogue releases the blocks that are held, the I block after its publication (R161). -/
theorem TraceBalanced.epilogue (hs : TraceBalanced s) (hI : s.acqI = true) : TraceBalanced (epilogue s) := by
  have hstart : replay s.events = some (true, s.acqQ) := by rw [hs, hI]
  rw [epilogue_eq]
  show replay _ = some (false, false)
  rw [replay_append, replay_append, hstart]
  by_cases hmode : s.mode = .report <;> cases s.acqQ <;> simp [hmode, replayEvent]

/-- Of the commands only PROCESS records events (R152). -/
theorem CommandEffect.balanced {i : Instr} (heffect : CommandEffect s i t) (h : Inv s) (hs : TraceBalanced s) :
    TraceBalanced t := by
  cases heffect with
  | drain hb => exact hs.drain h hb
  | prologue hb => exact hs.prologue h hb
  | hstep => exact SameTrace.balanced { SameTrace.hilbertShift (argSample0 s) (argSample1 s) s with } hs
  | dstep => exact SameTrace.balanced { SameTrace.decimStep (argSample0 s) (argSample1 s) s with } hs
  | held | nothing | raiseFault | clearFault | result | setmode | setcfg | dpub => exact SameTrace.balanced {} hs

/-- Settles O58, by the kinds of effect of a step: PROCESS and the epilogue follow the protocol, and no other step but a reset
records an event or moves ACQ_I or ACQ_Q. -/
theorem traceStaysBalanced : Obligations.TraceStaysBalanced := by
  intro s t h hs hreset hstep
  have hturn : TraceBalanced { s with turns := s.turns.tail } := hs
  cases step_effect hstep with
  | reset _ hr | resetAlone hr => simp [hr] at hreset
  | command i hi ti hd _ _ hheld hexec => exact (exec_effect hexec).balanced (h.beforeCommand s.turns.tail hi ti hheld) hs
  | idle | hostFault | hostData | hostArg0 | hostArg1 => exact SameTrace.balanced {} hs
  | offer r samples ti => exact (SameTrace.offer r samples { s with turns := s.turns.tail, transIn := ti }).balanced hs
  | withdraw r ti => exact (SameTrace.withdraw r { s with turns := s.turns.tail, transIn := ti }).balanced hs
  | sample _ _ _ _ hsample => exact (sampleStep_effect hsample).sameTrace.balanced hturn
  | epilogue _ hb => exact hturn.epilogue (h.acqI_of_busy hb)

end Sys2Proof.Machine
end

section
/-! The configuration and control commands (spec 45_dispatcher.md, R140 to R146). -/

namespace Sys2Proof.Machine

variable {s : State}

theorem modeCodes : ModeCodes := ⟨rfl, rfl, rfl, rfl, rfl⟩

theorem magselCodes : MagselCodes := ⟨rfl, rfl, rfl⟩

/-! ### NOP and CLRF -/

/-- Settles O12. -/
theorem nopCommand : Obligations.NopCommand := ⟨bareCommand_of_format (i := .nop) rfl, fun _ => rfl⟩

/-- Settles O17. -/
theorem clrfCommand : Obligations.ClrfCommand := ⟨bareCommand_of_format (i := .clrf) rfl, fun _ => rfl⟩

/-! ### SETMODE and SETCFG -/

theorem decode_setmode (opr : BitVec 24) : decode (0x01#8 ++ opr) = decodeMode opr := decode_of_opcode (.setmode .idle) opr

theorem decode_setcfg (opr : BitVec 24) : decode (0x02#8 ++ opr) = decodeConfig opr :=
  decode_of_opcode (.setcfg resetCfg) opr

theorem exec_setmode_of_busy {m : Mode} (hbusy : s.busy = true) :
    exec (.setmode m) s = .next { s with held := some (.setmode m) } :=
  congrArg Host.Outcome.next (heldWhileBusy_busy hbusy _ _)

theorem exec_setcfg_of_busy {c : Cfg} (hratio : c.ratio ≠ 0) (hbusy : s.busy = true) :
    exec (.setcfg c) s = .next { s with held := some (.setcfg c) } :=
  congrArg Host.Outcome.next ((if_neg hratio).trans (heldWhileBusy_busy hbusy _ _))

/-- Settles O13: the words by the three verdicts of format M, and the effect between block processes and while BUSY = 1. -/
theorem setmodeCommand : Obligations.SetmodeCommand := by
  refine ⟨modeCodes, fun opr => ?_, fun m s => ⟨exec_setmode_idle, exec_setmode_of_busy⟩⟩
  rcases decodeMode_cases opr with ⟨hset, hdec⟩ | ⟨hclear, hbad, hdec⟩ | ⟨hclear, hok, m, hcode, hdec⟩
  all_goals rw [← decode_setmode] at hdec
  · exact ⟨fun _ => faultsWith_of_error hdec, (absurd · hset), (absurd · hset)⟩
  · exact ⟨absurd hclear, fun _ _ => faultsWith_of_error hdec, fun _ => (absurd hbad ·.not_gt)⟩
  · exact ⟨absurd hclear, fun _ => (absurd hok ·.not_ge), fun _ _ => ⟨m, hcode, hdec⟩⟩

/-- Settles O14: the words by the three verdicts of format C, and the effect between block processes and while BUSY = 1. -/
theorem setcfgCommand : Obligations.SetcfgCommand := by
  refine ⟨magselCodes, fun opr => ?_, fun c s hratio => ⟨exec_setcfg_idle hratio, exec_setcfg_of_busy hratio⟩⟩
  intro reserved badValue
  rcases decodeConfig_cases opr with ⟨hset, hdec⟩ | ⟨hclear, ⟨hbad, hdec⟩ | ⟨hok, a, hcode, hdec⟩⟩
  all_goals rw [← decode_setcfg] at hdec
  · exact ⟨fun _ => faultsWith_of_error hdec, absurd hset, absurd hset⟩
  · exact ⟨(absurd · hclear), fun _ _ => faultsWith_of_error hdec, fun _ => absurd hbad⟩
  · exact ⟨(absurd · hclear), fun _ => (absurd · hok), fun _ _ => ⟨_, hdec, hcode, rfl, rfl, rfl, rfl, rfl⟩⟩

/-! ### RDCFG and RDDBG -/

/-- RES0 of RDCFG holds the 12 bits of CFG below 20 zeros (R143). -/
theorem zeroExtend_cfg_word (c : Cfg) : c.word.zeroExtend 32 = 0#20 ++ c.word := BitVec.setWidth_eq_append (by decide)

theorem exec_rdcfg (s : State) :
    exec .rdcfg s = .next { s with res0 := 0#20 ++ s.cfg.word, res1 := s.mode.code.zeroExtend 32 } := by
  rw [← zeroExtend_cfg_word]
  rfl

/-- Settles O15: below its 20 zeros the result is the CFG word, whose fields and flags are those of R20. -/
theorem rdcfgCommand : Obligations.RdcfgCommand := by
  refine ⟨magselCodes, modeCodes, bareCommand_of_format (i := .rdcfg) rfl, fun s => ⟨_, exec_rdcfg s, ?_⟩⟩
  have hfield : ∀ start len, start + len ≤ 12 →
      ((0#20) ++ s.cfg.word).extractLsb' start len = s.cfg.word.extractLsb' start len :=
    fun _ _ => BitVec.extractLsb'_append_eq_of_add_le
  have hflag : ∀ n, n < 12 → ((0#20) ++ s.cfg.word).getLsbD n = s.cfg.word.getLsbD n :=
    fun n hn => BitVec.getLsbD_append.trans (if_pos hn)
  obtain ⟨hmagsel, hgap, hratio⟩ := cfg_word_fields s.cfg
  obtain ⟨hhsel, hrails, henvdec, henvzs⟩ := cfg_word_flags s.cfg
  exact ⟨(hfield 0 2 (by decide)).trans hmagsel, (hflag 2 (by decide)).trans hhsel, (hflag 3 (by decide)).trans hrails,
    (hflag 4 (by decide)).trans henvdec, (hflag 5 (by decide)).trans henvzs, (hfield 6 2 (by decide)).trans hgap,
    (hfield 8 4 (by decide)).trans hratio, BitVec.extractLsb'_append_eq_left⟩

/-- Settles O16. -/
theorem rddbgCommand : Obligations.RddbgCommand := by
  refine ⟨bareCommand_of_format (i := .rddbg) rfl, fun s => ?_⟩
  rw [BitVec.ofNat_toNat]
  rfl

end Sys2Proof.Machine
end

section
/-! PROCESS and the pipeline's steps (spec 45_dispatcher.md, R147 to R161). -/

namespace Sys2Proof.Machine

variable {s t : State} {ts : List Turn}

/-! ### PROCESS -/

theorem exec_process_of_busy (hb : s.busy = true) : exec .process s = .next (s.raiseFault .overrun) :=
  congrArg Host.Outcome.next (if_pos hb)

theorem exec_process_of_drains (hb : s.busy = false) (hd : drains s = true) : exec .process s = .next (drain s) :=
  congrArg Host.Outcome.next ((if_neg (ne_true_of_eq_false hb)).trans (if_pos hd))

theorem exec_process_of_not_drains (hb : s.busy = false) (hd : drains s = false) :
    exec .process s = .next (prologue s) :=
  congrArg Host.Outcome.next ((if_neg (ne_true_of_eq_false hb)).trans (if_neg (ne_true_of_eq_false hd)))

/-- The mode and the blocks on offer that a block process needs to start (R148, R149). -/
def ReadyToProcess (s : State) : Prop :=
  s.mode ≠ .idle ∧ s.presentI = true ∧
    (s.presentQ = true ∨ (s.mode = .ssbUsb ∨ s.mode = .ssbLsb) ∧ s.cfg.rails = true)

/-- Only the SSB modes in single rail go without the Q block (R149). -/
theorem needsQ_eq_false {m : Mode} {rails : Bool} (hm : m ≠ .idle) :
    needsQ m rails = false ↔ (m = .ssbUsb ∨ m = .ssbLsb) ∧ rails = true := by
  cases m with
  | idle => exact absurd rfl hm
  | envelope | ssbUsb | ssbLsb | report => simp [needsQ]

theorem drains_eq_false_iff_ready : drains s = false ↔ ReadyToProcess s := by
  rw [drains_eq_false, ReadyToProcess]
  refine and_congr_right fun hm => and_congr_right fun _ => ?_
  rw [← needsQ_eq_false hm]
  cases needsQ s.mode s.cfg.rails <;> simp

/-- Settles O38: the three cases of a PROCESS, the last two told apart by `drains`. -/
theorem processCommand : Obligations.ProcessCommand := by
  refine ⟨bareCommand_of_format (i := .process) rfl, fun s => ⟨exec_process_of_busy, fun hb hnot => ?_, fun hb hready => ?_⟩⟩
  · rw [exec_process_of_drains hb (eq_true_of_ne_false (mt drains_eq_false_iff_ready.mp hnot)), drain_eq]
    rfl
  · rw [exec_process_of_not_drains hb (drains_eq_false_iff_ready.mpr hready), prologue_eq, List.append_assoc]
    rfl

/-! ### The turn of the pipeline -/

/-- On its turn the pipeline makes the next sample step of a block process (R148). -/
theorem step_of_sample_turn (hturns : s.turns = .pipeline :: ts) (hb : s.busy = true) (hn : s.sidx < s.par.blockLen) :
    step s = sampleStep { s with turns := ts } :=
  (step_of_pipeline_turn hturns).trans (pipelineStep_of_lt hb hn)

/-- After the last sample step the pipeline's turn is the epilogue (R161). -/
theorem step_of_epilogue_turn (hturns : s.turns = .pipeline :: ts) (hb : s.busy = true) (hn : s.par.blockLen ≤ s.sidx) :
    step s = .next (epilogue { s with turns := ts }) :=
  (step_of_pipeline_turn hturns).trans (pipelineStep_of_le hb hn)

/-- Settles O42. -/
theorem epilogueStep : Obligations.EpilogueStep := by
  intro s ts hturns hb hn
  rw [step_of_epilogue_turn hturns hb hn.ge, epilogue_eq]
  simp only [List.append_assoc, List.singleton_append]

/-! ### The ENVELOPE sample step -/

theorem sampleStep_of_envelope (hmode : s.mode = .envelope) : sampleStep s = envStep s := by rw [sampleStep, hmode]

/-- The I block after the ENVELOPE step (R157). -/
def envBlock (s : State) : Memory 16 :=
  match envOutput (Memory.read s.blkI s.sidx) (Memory.read s.blkQ s.sidx) s with
  | none => s.blkI
  | some v => Memory.write s.blkI s.sidx (BitVec.ofInt 16 v)

theorem step_envelope_sample (hturns : s.turns = .pipeline :: ts) (hb : s.busy = true) (hmode : s.mode = .envelope)
    (hI : s.acqI = true) (hQ : s.acqQ = true) (hn : s.sidx < s.par.blockLen) :
    step s = .next { s with turns := ts, sidx := s.sidx + 1, rem := envRem s, blkI := envBlock s } :=
  calc step s
    _ = sampleStep { s with turns := ts } := step_of_sample_turn hturns hb hn
    _ = envStep { s with turns := ts } := sampleStep_of_envelope hmode
    _ = _ := envStep_eq hmode hI hQ hn

/-- Without decimation, and where a run is complete, the output is the magnitude (R157). -/
theorem envBlock_of_magnitude (h : s.cfg.envdec = false ∨ completesRun s = true) : envBlock s =
    Memory.write s.blkI s.sidx (BitVec.ofInt 16 (magSel s (Memory.read s.blkI s.sidx) (Memory.read s.blkQ s.sidx))) := by
  have hout : (!s.cfg.envdec || completesRun s) = true := by simpa using h
  simp only [envBlock, envOutput, hout, if_true]

/-- Within a run ENVZS has the output silent (R157). -/
theorem envBlock_of_silence (hdec : s.cfg.envdec = true) (hrun : completesRun s = false) (hzs : s.cfg.envzs = true) :
    envBlock s = Memory.write s.blkI s.sidx 0 := by
  simp only [envBlock, envOutput, hdec, hrun, hzs]
  rfl

/-- Within a run and without ENVZS the sample stays (R157). -/
theorem envBlock_of_kept (hdec : s.cfg.envdec = true) (hrun : completesRun s = false) (hzs : s.cfg.envzs = false) :
    envBlock s = s.blkI := by
  simp only [envBlock, envOutput, hdec, hrun, hzs]
  rfl

theorem envBlock_read_other (s : State) {n : Nat} (hn : n ≠ s.sidx) :
    Memory.read (envBlock s) n = Memory.read s.blkI n := by
  unfold envBlock
  split
  · rfl
  · exact Memory.read_write_other _ hn _

/-- A magnitude fits a sample (R100, R157). -/
theorem toNat_ofInt_magBy (a : MagAlg) (i q : Sample) : (BitVec.ofInt 16 (magBy a i q)).toNat = magBy a i q := by
  have hle := magBy_le a i q
  rw [BitVec.ofInt_natCast, BitVec.toNat_ofNat]
  omega

theorem envRem_of_not_envdec (hdec : s.cfg.envdec = false) : envRem s = s.rem := by simp [envRem, hdec]

theorem envRem_of_completes (hdec : s.cfg.envdec = true) (hrun : completesRun s = true) : envRem s = 0 := by
  simp [envRem, remAfter, hdec, hrun]

theorem envRem_of_count (hdec : s.cfg.envdec = true) (hrun : completesRun s = false) : envRem s = s.rem + 1 := by
  simp [envRem, remAfter, hdec, hrun]

/-- Settles O39, by what ENVDEC, ENVZS and the run's count make of REM and of the I block. -/
theorem envelopeSampleStep : Obligations.EnvelopeSampleStep := by
  intro s ts hturns hb hmode hI hQ hn hwf i q full
  have hfull : full ↔ completesRun s = true := completesRun_iff.symm
  have hpartial : ¬full → completesRun s = false := fun h => completesRun_eq_false.mpr (not_le.mp h)
  refine ⟨envRem s, envBlock s, step_envelope_sample hturns hb hmode hI hQ hn, envRem_of_not_envdec,
    fun hdec h => envRem_of_completes hdec (hfull.mp h), fun hdec h => ?_, fun h => ?_, fun hdec h hzs => ?_,
    fun hdec h hzs => by rw [envBlock_of_kept hdec (hpartial h) hzs], fun n => envBlock_read_other s⟩
  · rw [envRem_of_count hdec (hpartial h), toNat_rem_add_one (not_le.mp h)]
  · rw [envBlock_of_magnitude (h.imp_right hfull.mp), Memory.read_write_same hwf]
    exact toNat_ofInt_magBy _ _ _
  · rw [envBlock_of_silence hdec (hpartial h) hzs, Memory.read_write_same hwf]

/-! ### The SSB sample step -/

/-- The sideband of a mode's combine (R158). -/
def sidebandOf (m : Mode) : Sideband := if m = .ssbUsb then .usb else .lsb

theorem sampleStep_of_ssb (hmode : s.mode = .ssbUsb ∨ s.mode = .ssbLsb) :
    sampleStep s = ssbStep (sidebandOf s.mode) s := by
  rcases hmode with hmode | hmode <;> rw [sampleStep, hmode] <;> rfl

/-- The Q sample of the SSB step; in single rail none is read (R158). -/
def ssbSampleQ (s : State) : Sample := if s.cfg.rails then 0 else Memory.read s.blkQ s.sidx

theorem step_ssb_sample (hturns : s.turns = .pipeline :: ts) (hb : s.busy = true)
    (hmode : s.mode = .ssbUsb ∨ s.mode = .ssbLsb) (hI : s.acqI = true) (hQ : s.cfg.rails = false → s.acqQ = true)
    (hn : s.sidx < s.par.blockLen) :
    step s = .next (ssbAfter (sidebandOf s.mode) (Memory.read s.blkI s.sidx) (ssbSampleQ s) { s with turns := ts }) :=
  have hpublishes : publishes s.mode = true := by rcases hmode with hmode | hmode <;> rw [hmode] <;> rfl
  calc step s
    _ = sampleStep { s with turns := ts } := step_of_sample_turn hturns hb hn
    _ = ssbStep (sidebandOf s.mode) { s with turns := ts } := sampleStep_of_ssb hmode
    _ = _ := ssbStep_eq _ hpublishes hI hQ hn

/-- What the SSB step writes (R158). -/
theorem ssbAfter_eq (sb : Sideband) (i q : Sample) (s : State) : ssbAfter sb i q s = { s with
    sidx := s.sidx + 1
    dlI := shiftIn s.dlI i
    dlQ := if s.cfg.rails then s.dlQ else shiftIn s.dlQ q
    blkI := Memory.write s.blkI s.sidx (BitVec.ofInt 16 (combine ((shiftIn s.dlI i)[15]).toInt
      (hq s.par s.cfg.hsel (if s.cfg.rails then shiftIn s.dlI i else if s.cfg.rails then s.dlQ else shiftIn s.dlQ q)) sb)) } := by
  simp only [ssbAfter, hilbertShift_eq, delayedI, filteredQ]

/-- A combined value fits a sample (R86, R158). -/
theorem toInt_ofInt_combine (d h : Int) (sb : Sideband) : (BitVec.ofInt 16 (combine d h sb)).toInt = combine d h sb := by
  have hrange := combine_range d h sb
  exact BitVec.toInt_ofInt_eq_self (by decide) (by omega) (by omega)

theorem combine_sidebandOf (d h : Int) (m : Mode) :
    combine d h (sidebandOf m) = max (-32767) (min 32767 (if m = .ssbUsb then d + h else d - h)) := by
  unfold sidebandOf
  split
  · exact combine_usb d h
  · exact combine_lsb d h

/-- Settles O40: the lines by the shift of R93, the stored sample by the combine, which does not wrap. -/
theorem ssbSampleStep : Obligations.SsbSampleStep := by
  intro s ts hturns hb hmode hI hQ hn hwf
  refine ⟨_, _, _, (step_ssb_sample hturns hb hmode hI hQ hn).trans (congrArg Host.Outcome.next (ssbAfter_eq _ _ _ _)),
    fun j hj => shiftIn_get _ _ j hj, ?_, fun hrails => ?_, fun hrails => if_pos hrails, ?_,
    fun n hne => Memory.read_write_other _ hne _⟩
  · rw [shiftIn_get_last, signExtend_toInt]
  · simp only [ssbSampleQ, hrails, Bool.false_eq_true, if_false]
    exact ⟨fun j hj => shiftIn_get _ _ j hj, by rw [shiftIn_get_last, signExtend_toInt]⟩
  · rw [Memory.read_write_same hwf, toInt_ofInt_combine, combine_sidebandOf]

/-! ### The REPORT sample step -/

/-- Settles O41: the decimator step on the sample pair, by whether it completes a run. -/
theorem reportSampleStep : Obligations.ReportSampleStep := by
  intro s ts hturns hb hmode hI hQ hn hmag hph
  have hstep := step_report_sample hturns hb hmode hI hQ hn
  refine ⟨fun hlt => ?_, fun hle => ?_⟩
  · rw [hstep, decimStep_count (by exact completesRun_eq_false.mpr hlt), ← rem_add_one]
  · have hrun := completesRun_iff.mpr hle
    have hpair := reportPair_decimStep_write hrun hmag hph (blockSample s s.sidx)
    obtain ⟨hm, hf⟩ := read_of_reportPair_eq ((hpair s.widx).trans (if_pos rfl))
    rw [decimStep_write (by exact hrun)] at hstep
    rw [decimStep_write hrun] at hm hf hpair
    exact ⟨_, _, hstep, hm, hf, fun k hk => Prod.mk.inj ((hpair k).trans (if_neg hk))⟩

end Sys2Proof.Machine
end

section
/-! A block process from its start to its epilogue (R145, R148, R161, R162): what each agent's turn can do to it, the turns before the
epilogue taken together, and the epilogue. -/

namespace Sys2Proof.Machine

variable {s t v : State} {u : Turn} {us ts : List Turn}

/-! ### The other agents' steps during a block process -/

/-- `t` is `s` but for what the host's step can write during a block process (R13, R73, R176). -/
def HostFrame (s t : State) : Prop :=
  t = { s with
    arg0 := t.arg0
    arg1 := t.arg1
    res0 := t.res0
    res1 := t.res1
    fault := t.fault
    fcause := t.fcause
    held := t.held
    busData := t.busData
    hostIn := t.hostIn }

/-- A command issued during a block process is held, or writes the results and the fault only (R147, R176). -/
theorem exec_hostFrame {i : Instr} (h : exec i s = .next t) (hb : s.busy = true) : HostFrame s t := by
  cases exec_effect h with
  | held | nothing | raiseFault | clearFault | result => rfl
  | setmode _ hidle | setcfg _ hidle | hstep _ _ hidle | dstep _ hidle | dpub hidle | drain hidle | prologue hidle =>
    simp [hb] at hidle

theorem hostRead_hostFrame (addr size : Nat) (s : State) : HostFrame s (hostRead addr size s) := by
  rcases hostRead_cases addr size s with h | ⟨_, h⟩ | h <;> rw [h] <;> rfl

theorem hostWrite_hostFrame {addr size : Nat} {data : Word} (h : hostWrite addr size data s = .next t)
    (hb : s.busy = true) : HostFrame s t := by
  rcases hostWrite_cases h with rfl | rfl | ⟨-, -, rfl⟩ | ⟨-, -, rfl⟩ | ⟨-, -, h⟩
  case inr.inr.inr.inr =>
    rcases issue_cases h with ⟨c, -, rfl⟩ | ⟨i, -, h⟩
    · rfl
    · exact exec_hostFrame h hb
  all_goals rfl

/-- The host's step during a block process. -/
theorem hostStep_hostFrame (h : hostStep s = .next t) (hb : s.busy = true) : HostFrame s t := by
  rcases hostStep_cases h with ⟨_, -, -, rfl⟩ | ⟨_, -, hidle, -⟩ | ⟨-, -, rfl⟩ | ⟨addr, size, rest, -, -, rfl⟩ |
    ⟨_, _, _, rest, -, -, h⟩ | ⟨rest, -, -, rfl⟩
  · rfl
  · simp [hb] at hidle
  · rfl
  · exact hostRead_hostFrame addr size { s with hostIn := rest }
  · exact hostWrite_hostFrame (s := { s with hostIn := rest }) h hb
  · rw [hostWait_eq]
    rfl

/-- A TICK during a block process is dropped with OVERRUN (R147). -/
theorem transportStep_of_tick {rest : List TransportAct} (hin : s.transIn = .tick :: rest) (hb : s.busy = true) :
    transportStep s = .next (State.raiseFault .overrun { s with transIn := rest }) := by
  simp only [transportStep, hin]
  exact exec_process_of_busy (s := { s with transIn := rest }) hb

theorem transportStep_of_nil (hin : s.transIn = []) : transportStep s = .next s := by
  simp only [transportStep, hin]

/-- During a block process the transport has nothing to do or pulses TICK: it changes no offer (R154, U9). -/
theorem transportStep_of_busy (h : transportStep s = .next t) (hb : s.busy = true) :
    t = s ∨ ∃ rest, s.transIn = .tick :: rest ∧ t = State.raiseFault .overrun { s with transIn := rest } := by
  rcases transportStep_cases h with ⟨-, rfl⟩ | ⟨rest, hin, -⟩ | ⟨_, _, _, -, hidle, -⟩ | ⟨_, _, -, hidle, -⟩
  · exact .inl rfl
  · exact .inr ⟨rest, hin, Host.Outcome.next.inj (h.symm.trans (transportStep_of_tick hin hb))⟩
  · simp [hb] at hidle
  · simp [hb] at hidle

/-- Settles O45, by whose step it is: the host and the transport leave the block process alone, and no step of the pipeline writes
MODE or CFG. -/
theorem blockProcessIsUndisturbed : Obligations.BlockProcessIsUndisturbed := by
  intro s t hstep hb hreset
  rcases step_cases hstep with ⟨a, hturn, h⟩ | ⟨-, rfl⟩
  · cases a with
    | host =>
      have hframe : HostFrame _ t := hostStep_hostFrame h hb
      rw [hframe]
      simp [hb]
    | transport =>
      rcases transportStep_of_busy h hb with rfl | ⟨rest, -, rfl⟩ <;> simp [hb]
    | pipeline =>
      rcases pipelineStep_cases h with ⟨hidle, -⟩ | ⟨-, -, hsample⟩ | ⟨-, -, rfl⟩
      · simp [hb] at hidle
      · rw [(sampleStep_effect hsample).frame]
        simp [hturn]
      · rw [epilogue_eq]
        simp [hturn]
    | reset r => simp [resetsNext_iff.mpr ⟨r, hturn⟩] at hreset
  · simp [hb]

/-! ### The turns before the epilogue -/

/-- `t` has what every step of a block process but the epilogue keeps. -/
structure Underway (s t : State) : Prop where
  par : t.par = s.par := by rfl
  mode : t.mode = s.mode := by rfl
  cfg : t.cfg = s.cfg := by rfl
  rpos : t.rpos = s.rpos := by rfl
  busy : t.busy = s.busy := by rfl
  acqQ : t.acqQ = s.acqQ := by rfl
  blkQ : t.blkQ = s.blkQ := by rfl
  events : t.events = s.events := by rfl
  published : t.published = s.published := by rfl
  /-- REPORT only reads the I block (R159). -/
  report : s.mode = .report → t.blkI = s.blkI := by exact fun _ => rfl
  /-- The other modes do not decimate into the report buffer (R157, R158). -/
  others : s.mode ≠ .report → t.widx = s.widx := by exact fun _ => rfl

theorem Underway.trans (h : Underway s t) (h' : Underway t v) : Underway s v where
  par := h'.par.trans h.par
  mode := h'.mode.trans h.mode
  cfg := h'.cfg.trans h.cfg
  rpos := h'.rpos.trans h.rpos
  busy := h'.busy.trans h.busy
  acqQ := h'.acqQ.trans h.acqQ
  blkQ := h'.blkQ.trans h.blkQ
  events := h'.events.trans h.events
  published := h'.published.trans h.published
  report hm := (h'.report (h.mode.trans hm)).trans (h.report hm)
  others hm := (h'.others (h.mode.symm ▸ hm)).trans (h.others hm)

theorem HostFrame.underway (h : HostFrame s t) : Underway s t := by
  rw [h]
  exact {}

theorem SampleEffect.underway (h : SampleEffect s t) : Underway s t := by
  have hreport := h.report
  have hothers := h.others
  rw [h.frame] at hreport hothers ⊢
  exact { report := hreport, others := hothers }

/-- The registers and the fault, which the host sees and no block process writes. -/
def hostView (s : State) : Word × Word × Word × Word × Bool × Cause :=
  (s.arg0, s.arg1, s.res0, s.res1, s.fault, s.fcause)

theorem SampleEffect.hostView_eq (h : SampleEffect s t) : hostView t = hostView s := by
  rw [h.frame]
  rfl

/-- `t` is a state of the block process of `s` after the turns `us`, the pipeline's among them being sample steps. -/
structure TurnsTaken (us : List Turn) (s t : State) : Prop where
  underway : Underway s t
  turns : s.turns = us ++ t.turns
  sidx : t.sidx = s.sidx + us.count .pipeline
  transIn : t.transIn = s.transIn.drop (us.count .transport)
  alone : (∀ u ∈ us, u = .pipeline) → hostView t = hostView s

theorem TurnsTaken.nil (s : State) : TurnsTaken [] s s where
  underway := {}
  turns := rfl
  sidx := rfl
  transIn := rfl
  alone _ := rfl

theorem TurnsTaken.cons (h : TurnsTaken [u] s t) (h' : TurnsTaken us t v) : TurnsTaken (u :: us) s v where
  underway := h.underway.trans h'.underway
  turns := by rw [h.turns, h'.turns]; rfl
  sidx := by rw [h'.sidx, h.sidx, Nat.add_assoc, ← List.count_append]; rfl
  transIn := by rw [h'.transIn, h.transIn, List.drop_drop, ← List.count_append]; rfl
  alone hall :=
    have ⟨hu, hus⟩ := List.forall_mem_cons.mp hall
    (h'.alone hus).trans (h.alone (by simpa using hu))

/-- A turn of the host during a block process. -/
theorem take_host_turn (hb : s.busy = true) (hturns : s.turns = .host :: ts) :
    ∃ t, step s = .next t ∧ TurnsTaken [.host] s t := by
  have hstep : step s = hostStep { s with turns := ts } := by rw [step_of_turn (nextTurn_cons hturns), hturns]; rfl
  obtain ⟨t, ht⟩ := hostStep_next { s with turns := ts }
  have hframe : HostFrame { s with turns := ts } t := hostStep_hostFrame ht hb
  refine ⟨t, hstep.trans ht, ?_⟩
  exact
    { underway := { hframe.underway with }
      turns := by rw [hframe]; exact hturns
      sidx := by rw [hframe]; rfl
      transIn := by rw [hframe]; rfl
      alone := by simp }

/-- A turn of the transport that pulses TICK or has nothing to do, during a block process (R154). -/
theorem take_transport_turn (hb : s.busy = true) (hturns : s.turns = .transport :: ts)
    (htick : ∀ a ∈ s.transIn.head?, a = .tick) : ∃ t, step s = .next t ∧ TurnsTaken [.transport] s t := by
  have hstep : step s = transportStep { s with turns := ts } := by
    rw [step_of_turn (nextTurn_cons hturns), hturns]
    rfl
  cases hin : s.transIn with
  | nil =>
    exact ⟨_, hstep.trans (transportStep_of_nil hin),
      { underway := {}, turns := hturns, sidx := rfl, transIn := by rw [hin]; rfl, alone := by simp }⟩
  | cons a rest =>
    obtain rfl : a = .tick := htick a (by simp [hin])
    exact ⟨_, hstep.trans (transportStep_of_tick hin hb),
      { underway := {}, turns := hturns, sidx := rfl, transIn := by rw [hin]; rfl, alone := by simp }⟩

/-- A turn of the pipeline before the epilogue: a sample step, which a legal state allows (R44, R148). -/
theorem take_sample_turn (h : Inv s) (hb : s.busy = true) (hturns : s.turns = .pipeline :: ts)
    (hn : s.sidx < s.par.blockLen) : ∃ t, step s = .next t ∧ TurnsTaken [.pipeline] s t := by
  have hinv : Inv { s with turns := ts } := h.agents ts s.hostIn s.transIn s.busData
  obtain ⟨t, ht⟩ := hinv.sampleStep_next hb hn
  have heffect := sampleStep_effect ht
  refine ⟨t, (step_of_sample_turn hturns hb hn).trans ht, ?_⟩
  exact
    { underway := { heffect.underway with }
      turns := by rw [heffect.frame]; exact hturns
      sidx := by rw [heffect.frame]; rfl
      transIn := by rw [heffect.frame]; rfl
      alone := fun _ => heffect.hostView_eq }

/-- A turn of any agent but the reset, where the pipeline still has a sample step to make and the transport keeps its offers. -/
theorem take_turn (h : Inv s) (hb : s.busy = true) (hturns : s.turns = u :: ts) (hreset : ∀ r, u ≠ .reset r)
    (hn : u = .pipeline → s.sidx < s.par.blockLen) (htick : u = .transport → ∀ a ∈ s.transIn.head?, a = .tick) :
    ∃ t, step s = .next t ∧ TurnsTaken [u] s t := by
  cases u with
  | host => exact take_host_turn hb hturns
  | transport => exact take_transport_turn hb hturns (htick rfl)
  | pipeline => exact take_sample_turn h hb hturns (hn rfl)
  | reset r => exact absurd rfl (hreset r)

/-- A run's first step is a step of the machine. -/
theorem run_of_step {M : Host.Core} {s t : M.State} (h : M.step s = .next t) (k : Nat) : M.run (k + 1) s = M.run k t := by
  rw [Host.Core.run, h]

/-- Every interleaving without a reset, and with a transport that keeps its offers, makes the sample steps that remain. -/
theorem run_turns (h : Inv s) (hb : s.busy = true) (hturns : s.turns = us ++ ts) (hreset : ∀ r, Turn.reset r ∉ us)
    (hn : s.sidx + us.count .pipeline ≤ s.par.blockLen)
    (htick : ∀ a ∈ s.transIn.take (us.count .transport), a = .tick) :
    ∃ t, Sys2Proof.core.run us.length s = .next t ∧ TurnsTaken us s t := by
  induction us generalizing s with
  | nil => exact ⟨s, rfl, .nil s⟩
  | cons u us ih =>
    have hreset' : ∀ r, u ≠ .reset r ∧ Turn.reset r ∉ us := by simpa [eq_comm] using hreset
    obtain ⟨t, hstep, ht⟩ := take_turn h hb hturns (fun r => (hreset' r).1)
      (fun hu => by subst hu; rw [List.count_cons_self] at hn; omega)
      (fun hu a ha => htick a (by
        subst hu
        obtain ⟨rest, hin⟩ := List.head?_eq_some_iff.mp ha
        simp [hin]))
    have hcount (x : Turn) : (u :: us).count x = [u].count x + us.count x := List.count_append (l₁ := [u])
    obtain ⟨v, hrun, hv⟩ := ih (invariantKept s t h hstep) (ht.underway.busy.trans hb)
      (List.append_cancel_left (as := [u]) (ht.turns.symm.trans hturns)) (fun r => (hreset' r).2)
      (by rw [ht.sidx, ht.underway.par, Nat.add_assoc, ← hcount]; exact hn)
      (fun a ha => htick a (by
        rw [hcount, List.take_add]
        rw [ht.transIn] at ha
        exact List.mem_append_right _ ha))
    exact ⟨v, (run_of_step hstep _).trans hrun, ht.cons hv⟩

/-- Settles O59: after the turns `us` the block process has made its L sample steps, and the pipeline's turn that follows is the
epilogue, which finds MODE, the hold of the Q block and the trace as they were. -/
theorem blockProcessRunsToEnd : Obligations.BlockProcessRunsToEnd := by
  intro s us ts h hb hturns hreset hcount htick
  have hlast : s.sidx + us.count .pipeline = s.par.blockLen := by
    have hle := h.sidx_le
    omega
  obtain ⟨t, hrun, ht⟩ := run_turns h hb hturns hreset hlast.le htick
  have hstep := step_of_epilogue_turn (s := t) (List.append_cancel_left (ht.turns.symm.trans hturns))
    (ht.underway.busy.trans hb) (by rw [ht.sidx, ht.underway.par, hlast])
  rw [epilogue_eq] at hstep
  refine ⟨_, (run_succ hrun).trans hstep, rfl, rfl, rfl, rfl, rfl, ?_, ?_, fun hmode => ?_, fun hmode => ?_,
    ht.underway.blkQ, ht.underway.mode, ht.underway.cfg, fun hall => ?_⟩
  · simp only [ht.underway.events, ht.underway.mode, ht.underway.acqQ, List.append_assoc, List.singleton_append]
  · simp only [ht.underway.published, ht.underway.mode]
  · exact ⟨if_pos (ht.underway.mode.trans hmode), ht.underway.report hmode⟩
  · exact ⟨(if_neg (ht.underway.mode.symm ▸ hmode)).trans ht.underway.rpos, ht.underway.others hmode⟩
  · simpa only [hostView, Prod.mk.injEq] using ht.alone hall

end Sys2Proof.Machine
end

section
/-! The fault is sticky (R172): once FAULT is set no effect of a step but CLRF's and the reset's writes FAULT or FCAUSE, raising
another fault included. -/

namespace Sys2Proof.Machine

variable {s t u : State} {i : Instr}

/-- FAULT stands in `t`, with the cause that `s` records. -/
structure FaultKept (s t : State) : Prop where
  fault : t.fault = true
  fcause : t.fcause = s.fcause

/-- The turn, the agents' actions and the hold that a step uses up before its effect are no part of the fault. -/
theorem FaultKept.beforeEffect (hfault : s.fault = true) {ts : List Turn} {hi : List HostAct} {ti : List TransportAct}
    {hd : Option Instr} {bd : Word} :
    FaultKept s { s with turns := ts, hostIn := hi, transIn := ti, held := hd, busData := bd } := ⟨hfault, rfl⟩

/-- A later fault keeps the first cause (R172). -/
theorem FaultKept.raiseFault (h : FaultKept s t) (c : Cause) : FaultKept s (t.raiseFault c) :=
  ⟨rfl, (if_pos h.fault).trans h.fcause⟩

theorem FaultKept.setRes0 (h : FaultKept s t) (v : Word) : FaultKept s (t.setRes0 v) := ⟨h.fault, h.fcause⟩

theorem FaultKept.setRes1 (h : FaultKept s t) (v : Word) : FaultKept s (t.setRes1 v) := ⟨h.fault, h.fcause⟩

theorem FaultKept.hilbertShift (h : FaultKept s t) (x y : Sample) : FaultKept s (hilbertShift x y t) := by
  rw [hilbertShift_eq]
  exact ⟨h.fault, h.fcause⟩

theorem FaultKept.decimStep (h : FaultKept s t) (x y : Sample) : FaultKept s (decimStep x y t) := by
  rw [decimStep_frame]
  exact ⟨h.fault, h.fcause⟩

theorem FaultKept.offer (h : FaultKept s t) (r : Rail) (samples : List Sample) : FaultKept s (State.offer r samples t) := by
  cases r <;> exact ⟨h.fault, h.fcause⟩

theorem FaultKept.withdraw (h : FaultKept s t) (r : Rail) : FaultKept s (State.withdraw r t) := by
  cases r <;> exact ⟨h.fault, h.fcause⟩

theorem FaultKept.sample (h : FaultKept s t) (heffect : SampleEffect t u) : FaultKept s u := by
  rw [heffect.frame]
  exact ⟨h.fault, h.fcause⟩

theorem FaultKept.epilogue (h : FaultKept s t) : FaultKept s (epilogue t) := by
  rw [epilogue_eq]
  exact ⟨h.fault, h.fcause⟩

/-- Of the commands only CLRF ends a fault (R146). -/
theorem FaultKept.command (h : FaultKept s t) (heffect : CommandEffect t i u) : FaultKept s u ∨ i = .clrf := by
  cases heffect with
  | clearFault => exact .inr rfl
  | raiseFault _ c => exact .inl (h.raiseFault c)
  | held | nothing | result | setmode | setcfg | dpub => exact .inl ⟨h.fault, h.fcause⟩
  | hstep v₀ v₁ => exact .inl (((h.hilbertShift _ _).setRes0 v₀).setRes1 v₁)
  | dstep v => exact .inl ((h.decimStep _ _).setRes0 v)
  | drain => rw [drain_eq]; exact .inl ⟨h.fault, h.fcause⟩
  | prologue => rw [prologue_eq]; exact .inl ⟨h.fault, h.fcause⟩

/-- Of a step's effects only a command and the reset can end a fault. -/
theorem StepEffect.faultKept (h : StepEffect s t) (hfault : s.fault = true) :
    FaultKept s t ∨ commandOf s = some .clrf ∨ resetsNext s = true := by
  have hbefore := @FaultKept.beforeEffect s hfault
  cases h with
  | reset _ hreset | resetAlone hreset => exact .inr (.inr hreset)
  | command _ _ _ _ _ hcommand _ hexec =>
    rcases hbefore.command (exec_effect hexec) with hkept | rfl
    · exact .inl hkept
    · exact .inr (.inl hcommand)
  | hostFault _ _ c => exact .inl (hbefore.raiseFault c)
  | idle | hostData | hostArg0 | hostArg1 => exact .inl ⟨hfault, rfl⟩
  | offer r samples => exact .inl (hbefore.offer r samples)
  | withdraw r => exact .inl (hbefore.withdraw r)
  | sample _ _ _ _ hstep => exact .inl (hbefore.sample (sampleStep_effect hstep))
  | epilogue => exact .inl hbefore.epilogue

/-- Settles O11, by the kinds of effect of a step. -/
theorem faultIsSticky : Obligations.FaultIsSticky := by
  refine ⟨fun _ _ => rfl, fun s t hstep hfault => ?_⟩
  exact ((step_effect hstep).faultKept hfault).imp_left fun hkept => ⟨hkept.fault, hkept.fcause⟩

end Sys2Proof.Machine
end

section
/-! The hold of R176: which commands are held, what the host does while one is, and that the transport and the pipeline leave the
hold alone. -/

namespace Sys2Proof.Machine

variable {s t : State} {i : Instr} {ts : List Turn}

/-- Every well-formed mutating command is held while BUSY = 1. -/
theorem exec_mutating_of_busy (hmutating : i.mutating = true) (hwf : i.wf = true) (hbusy : s.busy = true) :
    exec i s = .next { s with held := some i } := by
  cases i with
  | setmode m => exact exec_setmode_of_busy hbusy
  | setcfg c => exact exec_setcfg_of_busy (by simpa [Instr.wf, Cfg.wf] using hwf) hbusy
  | hstep => exact exec_hstep_of_busy hbusy
  | dstep => exact exec_dstep_of_busy hbusy
  | dpub => exact exec_dpub_of_busy hbusy
  | _ => cases hmutating

/-- The other commands are never held. -/
theorem CommandEffect.held_eq (h : CommandEffect s i t) (hmutating : i.mutating = false) : t.held = s.held := by
  cases h with
  | held _ hmut => simp [hmut] at hmutating
  | nothing | raiseFault | clearFault | result => rfl
  | setmode | setcfg | hstep | dstep | dpub => cases hmutating
  | drain => rw [drain_eq]
  | prologue => rw [prologue_eq]

/-- On its turn the host waits with a held command while BUSY = 1. -/
theorem step_of_held_busy (hturns : s.turns = .host :: ts) (hheld : s.held = some i) (hbusy : s.busy = true) :
    step s = .next { s with turns := ts } := by
  simp [step_of_turn (nextTurn_cons hturns), agentStep, hostStep, hheld, hbusy, hturns]

/-- On its turn the host executes a held command once BUSY = 0. -/
theorem step_of_held_idle (hturns : s.turns = .host :: ts) (hheld : s.held = some i) (hbusy : s.busy = false) :
    step s = exec i { s with held := none, turns := ts } := by
  simp [step_of_turn (nextTurn_cons hturns), agentStep, hostStep, hheld, hbusy, hturns]

/-- The transport's only command is PROCESS, which is not mutating. -/
theorem transportStep_held (h : transportStep s = .next t) : t.held = s.held := by
  rcases transportStep_cases h with ⟨-, rfl⟩ | ⟨rest, -, hexec⟩ | ⟨r, samples, rest, -, -, -, rfl⟩ | ⟨r, rest, -, -, rfl⟩
  · rfl
  · exact (exec_effect hexec).held_eq rfl
  · cases r <;> rfl
  · cases r <;> rfl

theorem pipelineStep_held (h : pipelineStep s = .next t) : t.held = s.held := by
  rcases pipelineStep_cases h with ⟨-, rfl⟩ | ⟨-, -, hsample⟩ | ⟨-, -, rfl⟩
  · rfl
  · rw [(sampleStep_effect hsample).frame]
  · rw [epilogue_eq]

/-- Settles O7: the five mutating commands are held, the others keep the hold, and so do the transport and the pipeline. -/
theorem holdOfMutatingCommands : Obligations.HoldOfMutatingCommands := by
  refine ⟨fun _ _ => exec_mutating_of_busy, fun _ _ _ hmutating hexec => (exec_effect hexec).held_eq hmutating,
    fun _ _ _ hturns hheld => ⟨step_of_held_busy hturns hheld, step_of_held_idle hturns hheld⟩, ?_⟩
  rintro s t (hturn | hturn) hstep <;> rw [step_of_turn hturn] at hstep
  · exact (transportStep_held hstep :)
  · exact (pipelineStep_held hstep :)

end Sys2Proof.Machine
end
